-- ==== Sys2Proof/Word.lean ====
section
/-! DEFINITION. Word.lean: the widths of the CFE (spec/00_scope.md R8, R10). Bit 0 is the least significant bit of every
value and every value is unsigned; `a ++ b` of core `BitVec` places `a` above `b`, as R11 says. -/

namespace Sys2Proof

/-- A register of the window, a half-block, a round key or a command word: 32 bits (R8, R30). -/
abbrev Word := BitVec 32

/-- A 64-bit block (R8). -/
abbrev Block := BitVec 64

/-- A byte of the protected buffer, a Repetition(3) symbol (R8, R49). -/
abbrev Byte := BitVec 8

/-- An S-box entry or a Hamming symbol: 4 bits (R8, R51). -/
abbrev Nibble := BitVec 4

/-- A Hamming(7,4) codeword: 7 bits (R8). -/
abbrev HWord := BitVec 7

/-- A Parity16 symbol: 16 bits (R8). -/
abbrev Half := BitVec 16

/-- A byte offset inside the 4096-byte register window (R30): the window's 12 address bits. -/
abbrev Offset := BitVec 12

end Sys2Proof
end

