-- ==== Sys2Proof/Config.lean ====
section
/-! DEFINITION. Config.lean: the two parameters the spec leaves open (spec/00_scope.md R9). Everything else is fixed (R8) and
stands in the types: the block and word widths in Word.lean, the counts 8, 32, 24 and 128 in the vectors of
Machine/State.lean, the codec widths in Machine/Ecc.lean and Machine/Composition.lean. -/

namespace Sys2Proof.Config

/-- `CFE_BASE / 4096`. OPEN parameter (R9, 92_eei_decisions.md D2): nothing in Lean knows its value. -/
opaque cfeBasePage : Nat

/-- `CFE_BASE`: the bus address of offset 0x000, "an aligned 4 KiB boundary" (R9). -/
def cfeBase : Nat := 4096 * cfeBasePage

/-- `LAT(op) - 1` for a command word. OPEN parameter (R9, D34): nothing in Lean knows its value. -/
opaque latencyBeyondOne : Word → Nat

/-- `LAT(op)`: clock cycles from acceptance to completion, "at least 1" and with no upper bound (R9, R364). The model has
no clock (R366), so no step reads it: where a completion falls among the host's accesses is the turn list's to say
(log entry 1). -/
def lat (command : Word) : Nat := latencyBeyondOne command + 1

end Sys2Proof.Config
end

