-- ==== Sys2Proof/Syntax.lean ====
section
/-! DEFINITION. Syntax.lean: the command set, one constructor per row of spec/opcode_table.json (30_encoding.md R136).
"Command words carry no immediates and no register numbers. Every operand is implicit" (R140), so no constructor has an
argument. -/

namespace Sys2Proof

/-- A legal command of the CFE. The spec's mnemonic stands in each docstring. -/
inductive Instr where
  /-- `ENC`: encrypt one block (R175). -/
  | enc
  /-- `DEC`: decrypt one block (R176). -/
  | dec
  /-- `REKEY`: commit the staged key and S-box (R201). -/
  | rekey
  /-- `REKEY.Z`: commit the all-zero default key (R205). -/
  | rekeyZ
  /-- `LOADSCHED`: commit the staged schedule override and S-box (R208). -/
  | loadsched
  /-- `HENC`: Hamming-encode one nibble (R236). -/
  | henc
  /-- `HDEC`: Hamming-decode one codeword (R237). -/
  | hdec
  /-- `RENC`: Repetition-encode one byte (R243). -/
  | renc
  /-- `RDEC`: Repetition-decode one codeword (R244). -/
  | rdec
  /-- `PENC`: Parity16-encode one symbol (R255). -/
  | penc
  /-- `PDEC`: Parity16-decode one codeword (R256). -/
  | pdec
  /-- `GENC.H`: encrypt and Hamming-protect (R283). -/
  | gencH
  /-- `GENC.R`: encrypt and Repetition-protect (R284). -/
  | gencR
  /-- `GENC.P`: encrypt and Parity16-protect (R285). -/
  | gencP
  /-- `GDEC.H`: Hamming-decode and decrypt (R291). -/
  | gdecH
  /-- `GDEC.R`: Repetition-decode and decrypt (R292). -/
  | gdecR
  /-- `GDEC.P`: Parity16-decode and decrypt (R293). -/
  | gdecP
  deriving DecidableEq, Repr

end Sys2Proof
end

