-- ==== Sys2Proof/WellFormed.lean ====
section
/-! DEFINITION. WellFormed.lean: the fields of a command word (30_encoding.md R131) and the checks that make it legal
(R132 to R135). A command itself has no operand that could be ill-formed (R140); its fields are checked here, and
Laws/PerInstr.lean shows that the fields of every command pass. -/

namespace Sys2Proof

/-- The four fields of a command word (R131). -/
structure CmdFields where
  /-- Bits 7:0, the operation. -/
  op : BitVec 8
  /-- Bits 9:8, the codec of a composed command. -/
  codec : BitVec 2
  /-- Bit 10, the all-zero default key. -/
  z : BitVec 1
  /-- Bits 31:11, reserved. -/
  rsv : BitVec 21
  deriving DecidableEq, Repr

namespace CmdFields

/-- The fields of a word (R131). -/
def ofWord (c : Word) : CmdFields :=
  { op := c.extractLsb' 0 8, codec := c.extractLsb' 8 2, z := c.extractLsb' 10 1, rsv := c.extractLsb' 11 21 }

/-- The word with these fields (R131). -/
def toWord (f : CmdFields) : Word := f.rsv ++ f.z ++ f.codec ++ f.op

/-- The OP values of R132; "Every OP value not in the table is reserved". -/
def opValues : List (BitVec 8) :=
  [0x01, 0x02, 0x03, 0x04, 0x10, 0x11, 0x12, 0x13, 0x14, 0x15, 0x20, 0x21]

/-- OP is GENC or GDEC, the two operations that read CODEC (R133). -/
def composed (f : CmdFields) : Bool := f.op == 0x20 || f.op == 0x21

/-- R132: OP is a value of the table. -/
def opDefined (f : CmdFields) : Bool := opValues.contains f.op

/-- R133: CODEC is not 3 in a composed command, and is 0 in every other. -/
def codecLegal (f : CmdFields) : Bool := if f.composed then f.codec != 3 else f.codec == 0

/-- R134: Z is 0 unless OP is 0x03. -/
def zLegal (f : CmdFields) : Bool := f.z == 0 || f.op == 0x03

/-- R135: RSV is 0. -/
def rsvClear (f : CmdFields) : Bool := f.rsv == 0

/-- All the checks of R132 to R135. -/
def wellFormed (f : CmdFields) : Bool := f.opDefined && f.codecLegal && f.zLegal && f.rsvClear

end CmdFields
end Sys2Proof
end

