-- ==== Sys2Proof/Decode.lean ====
section
/-! DEFINITION. Decode.lean: the decoder (30_encoding.md R139), total on every 32-bit word and rejecting by name, and the
encoder from the tables of R131 to R136. A command word is one 32-bit value written to CMD (R130); it is not stored as
bytes, so no byte order enters. -/

namespace Sys2Proof

/-- Why a word is illegal (R137). The CFE reports all of them as ILLEGAL. -/
inductive DecodeError where
  /-- "any nonzero RSV bit". -/
  | reservedBits
  /-- "CODEC = 3" in a composed command. -/
  | reservedCodec
  /-- "a nonzero CODEC with an OP other than 0x20 or 0x21". -/
  | codecNotZero
  /-- "Z = 1 with an OP other than 0x03". -/
  | zNotZero
  /-- "a reserved OP", among them the word 0x00000000. -/
  | reservedOp
  deriving DecidableEq, Repr

/-- The commands that OP alone selects (R132, the last line of R139). -/
def plainOps : List (BitVec 8 × Instr) :=
  [(0x01, .enc), (0x02, .dec), (0x04, .loadsched), (0x10, .henc), (0x11, .hdec), (0x12, .renc), (0x13, .rdec),
   (0x14, .penc), (0x15, .pdec)]

/-- The composed command of OP and CODEC, `[H, R, P][cd]` in R139; CODEC 3 is reserved (R133). -/
def composedOp (op : BitVec 8) (cd : BitVec 2) : Except DecodeError Instr :=
  if cd = 0 then .ok (if op = 0x20 then .gencH else .gdecH)
  else if cd = 1 then .ok (if op = 0x20 then .gencR else .gdecR)
  else if cd = 2 then .ok (if op = 0x20 then .gencP else .gdecP)
  else .error .reservedCodec

/-- The decoding procedure of R139, in its order. -/
def decode (c : Word) : Except DecodeError Instr :=
  let f := CmdFields.ofWord c
  if f.rsv ≠ 0 then .error .reservedBits
  else if f.op = 0x20 ∨ f.op = 0x21 then
    if f.z = 1 then .error .zNotZero else composedOp f.op f.codec
  else if f.codec ≠ 0 then .error .codecNotZero
  else if f.op = 0x03 then .ok (if f.z = 1 then .rekeyZ else .rekey)
  else if f.z = 1 then .error .zNotZero
  else match plainOps.lookup f.op with
    | some i => .ok i
    | none => .error .reservedOp

/-- The fields of each command, from R132 to R135: OP, CODEC, Z, RSV. -/
def Instr.fields : Instr → CmdFields
  | .enc => ⟨0x01, 0, 0, 0⟩
  | .dec => ⟨0x02, 0, 0, 0⟩
  | .rekey => ⟨0x03, 0, 0, 0⟩
  | .rekeyZ => ⟨0x03, 0, 1, 0⟩
  | .loadsched => ⟨0x04, 0, 0, 0⟩
  | .henc => ⟨0x10, 0, 0, 0⟩
  | .hdec => ⟨0x11, 0, 0, 0⟩
  | .renc => ⟨0x12, 0, 0, 0⟩
  | .rdec => ⟨0x13, 0, 0, 0⟩
  | .penc => ⟨0x14, 0, 0, 0⟩
  | .pdec => ⟨0x15, 0, 0, 0⟩
  | .gencH => ⟨0x20, 0, 0, 0⟩
  | .gencR => ⟨0x20, 1, 0, 0⟩
  | .gencP => ⟨0x20, 2, 0, 0⟩
  | .gdecH => ⟨0x21, 0, 0, 0⟩
  | .gdecR => ⟨0x21, 1, 0, 0⟩
  | .gdecP => ⟨0x21, 2, 0, 0⟩

/-- The command word of a command (R131, R136). -/
def encode (i : Instr) : Word := i.fields.toWord

/-- What the decoder reads from an instruction whose bits are `w`, bit 0 the least significant bit of the only word.
There is "no multi-word form" (R130): a number over 32 bits is no command. -/
def decodeTableWord (nbits w : Nat) : Option Instr :=
  let bits := w % 2 ^ nbits
  if bits < 2 ^ 32 then
    match decode (BitVec.ofNat 32 bits) with
    | .ok i => some i
    | .error _ => none
  else none

end Sys2Proof
end

