-- ==== Sys2Proof/Machine/Bits.lean ====
section
/-! DEFINITION. Machine/Bits.lean: the operators of 00_scope.md R12 and the byte packings of 20_memory.md R109 and R112. -/

namespace Sys2Proof.Machine

/-- `rotl32(v, n)` for 0 < n < 32 (R12). -/
def rotl32 (v : Word) (n : Nat) : Word := (v <<< n) ||| (v >>> (32 - n))

/-- `popcount(v)`: the number of one bits in v (R12). -/
def popcount {n : Nat} (v : BitVec n) : Nat := (List.range n).countP fun i => v.getLsbD i

/-- `parity(v) = popcount(v) mod 2` (R12), true for 1. -/
def parity {n : Nat} (v : BitVec n) : Bool := popcount v % 2 == 1

/-- `ctz(v)`: the index of the lowest one bit of a nonzero v (R12). The spec gives it no value at 0, and no rule takes it
there; this function is the width at 0 (log entry 6). -/
def ctz {n : Nat} (v : BitVec n) : Nat := (List.range n).findIdx fun i => v.getLsbD i

/-- Four bytes as a word, the first in the top bits (R109, R112). -/
def wordOfBytes (b0 b1 b2 b3 : Byte) : Word := b0 ++ b1 ++ b2 ++ b3

/-- Byte `k` of a word, byte 0 in the top bits: the inverse of `wordOfBytes`. -/
def byteOfWord (w : Word) (k : Nat) : Byte := w.extractLsb' (24 - 8 * k) 8

/-- `n` words from `4 * n` bytes, packed big-endian, four bytes a word: a key (n = 8) or a schedule override (n = 32) held as
bytes (R109). -/
def wordsOfBytes {n : Nat} (b : Vector Byte (4 * n)) : Vector Word n :=
  Vector.ofFn fun j => wordOfBytes b[4 * j.val] b[4 * j.val + 1] b[4 * j.val + 2] b[4 * j.val + 3]

/-- A block from 8 bytes in big-endian byte order: `DIN_HI = P[0] ++ … ++ P[3]`, `DIN_LO = P[4] ++ … ++ P[7]` (R112). -/
def blockOfBytes (p : Vector Byte 8) : Block :=
  wordOfBytes p[0] p[1] p[2] p[3] ++ wordOfBytes p[4] p[5] p[6] p[7]

end Sys2Proof.Machine
end

