-- ==== Sys2Proof/Machine/SboxTable.lean ====
section
/-! DEFINITION. Machine/SboxTable.lean: the default S-box (10_state.md R58), the reset value of SBOX_STG and SBOX_ACT
(R59). The spec supplies the table from general knowledge (93_implementation_defined.md G1). -/

namespace Sys2Proof.Machine

/-- Row `i` of the table of R58: the images of the input nibbles 0..15 under row `i`. -/
def defaultSboxRow (i : Fin 8) : List Nibble :=
  match i with
  | 0 => [12, 4, 6, 2, 10, 5, 11, 9, 14, 8, 13, 7, 0, 3, 15, 1]
  | 1 => [6, 8, 2, 3, 9, 10, 5, 12, 1, 14, 4, 7, 11, 13, 0, 15]
  | 2 => [11, 3, 5, 8, 2, 15, 10, 13, 14, 1, 7, 4, 12, 9, 6, 0]
  | 3 => [12, 8, 2, 1, 13, 4, 15, 6, 7, 0, 10, 5, 3, 14, 9, 11]
  | 4 => [7, 15, 5, 10, 8, 1, 6, 13, 0, 9, 3, 14, 11, 4, 2, 12]
  | 5 => [5, 13, 15, 6, 9, 2, 12, 10, 11, 7, 8, 1, 4, 3, 14, 0]
  | 6 => [8, 14, 2, 5, 6, 9, 1, 12, 15, 4, 11, 0, 13, 10, 3, 7]
  | 7 => [1, 7, 14, 13, 0, 5, 8, 3, 4, 15, 10, 6, 9, 12, 11, 2]

/-- `DEFAULT_SBOX`, flat index `e = i*16 + v` (R58). -/
def defaultSbox : Vector Nibble 128 :=
  Vector.ofFn fun e => (defaultSboxRow ⟨e.val / 16, by omega⟩).getD (e.val % 16) 0

end Sys2Proof.Machine
end

