-- ==== Sys2Proof/Machine/State.lean ====
section
/-! DEFINITION. Machine/State.lean: the complete state of 10_state.md R57, one field per item of its list, and beside it
the outside world's side of the register port (`port`), which is the model's own. Plain data: no field is a function. -/

namespace Sys2Proof.Machine

/-- The fields of STATUS (10_state.md R33). Bits 31:13 are reserved and read as 0 (R40), so they hold nothing. -/
structure Status where
  /-- Bit 0: a command is accepted and not yet complete (R34). -/
  busy : Bool
  /-- Bit 1: a commit has occurred since reset (R35). -/
  kv : Bool
  /-- Bit 2: the active schedule came from LOADSCHED (R36). -/
  so : Bool
  /-- Bit 3: a host write was dropped because BUSY was 1 (R37). -/
  wdrop : Bool
  /-- Bits 7:4: the result code of the last completed command (R38). -/
  err : BitVec 4
  /-- Bits 12:8: the first failing symbol of the last completed command (R39). -/
  esym : BitVec 5
  deriving DecidableEq, Repr

/-- What may happen next at the CFE. "A model step is either one host access or one completion" (70_reset_and_hazards.md
R366); the reset input is the third thing the outside world can do (R350). -/
inductive Turn where
  /-- `BusRead(off, width)`: the host reads `width` bytes at `off` (R14, R100). -/
  | read (off : Offset) (width : Nat)
  /-- `BusWrite(off, width, v)` (R14, R100). -/
  | write (off : Offset) (width : Nat) (v : Word)
  /-- The engine moves: it completes the pending command, if there is one (R110). -/
  | engine
  /-- The reset input is asserted (R350). -/
  | reset
  deriving DecidableEq, Repr

/-- The outside world's side of the register port. MODEL'S OWN, not a register of the CFE (log entry 1): the turns to
come, in the order the CFE receives them (R113), and the values its reads have returned. -/
structure Port where
  /-- The turns to come, the next one first. -/
  turns : List Turn
  /-- The values returned by the reads so far, the last one first. -/
  replies : List Word
  deriving DecidableEq, Repr

/-- The state of the CFE (R57), and the port. -/
structure State where
  /-- The accepted and not yet completed command word (R55). -/
  pending : Option Word
  /-- STATUS (R33). -/
  status : Status
  /-- FAILMASK, bits 15:0 (R41). -/
  failmask : BitVec 16
  /-- DIN_HI (R42). -/
  dinHi : Word
  /-- DIN_LO (R42). -/
  dinLo : Word
  /-- DOUT_HI (R43). -/
  doutHi : Word
  /-- DOUT_LO (R43). -/
  doutLo : Word
  /-- KEY_STG(0..7), the staged key (R44). -/
  keyStg : Vector Word 8
  /-- KEY_WR, bits 7:0 (R45). -/
  keyWr : BitVec 8
  /-- KEY_ACT(0..7), the active key (R50). -/
  keyAct : Vector Word 8
  /-- SCHED_STG(0..31), the staged schedule override (R47). -/
  schedStg : Vector Word 32
  /-- SCHED_WR (R46). -/
  schedWr : BitVec 32
  /-- RKEY(0..31), the active schedule (R48). -/
  rkey : Vector Word 32
  /-- PBUF(0..23), the protected buffer (R49). -/
  pbuf : Vector Byte 24
  /-- SBOX_STG(0..127), the staged S-box (R51). -/
  sboxStg : Vector Nibble 128
  /-- SBOX_ACT(0..127), the active S-box (R52). -/
  sboxAct : Vector Nibble 128
  /-- MODEL'S OWN: the outside world's side of the register port. -/
  port : Port
  deriving DecidableEq, Repr

/-- A fault that stops the machine. There is none: "The CFE never traps, halts, loops or resets itself because of an
error" (60_exceptions.md R320); every error is a result code in STATUS and a next state. -/
inductive Fault
  deriving DecidableEq, Repr

/-- Why the model has no step. -/
inductive Refusal where
  /-- A command whose meaning is not written. No arm of `exec` answers it. Safe. -/
  | notModelled (mnemonic : String)
  /-- Raised by a host access turn that is not an aligned 32-bit access: "The model refuses such an access: it has no
  step, and the run is refused by name" (20_memory.md R101). Safe. -/
  | notAlignedWordAccess (off : Offset) (width : Nat)
  deriving DecidableEq, Repr

/-- STATUS after reset (R59). -/
def Status.reset : Status :=
  { busy := false, kv := false, so := false, wdrop := false, err := 0, esym := 0 }

/-- The state after hardware reset (R59): "SBOX_STG(e) and SBOX_ACT(e) to DEFAULT_SBOX[e]", all else 0 or empty; no turn
to come. -/
def State.reset : State where
  pending := none
  status := Status.reset
  failmask := 0
  dinHi := 0
  dinLo := 0
  doutHi := 0
  doutLo := 0
  keyStg := Vector.replicate 8 0
  keyWr := 0
  keyAct := Vector.replicate 8 0
  schedStg := Vector.replicate 32 0
  schedWr := 0
  rkey := Vector.replicate 32 0
  pbuf := Vector.replicate 24 0
  sboxStg := defaultSbox
  sboxAct := defaultSbox
  port := { turns := [], replies := [] }

end Sys2Proof.Machine
end

