-- ==== Sys2Proof/Machine/Flags.lean ====
section
/-! DEFINITION. Machine/Flags.lean: every status computation: the result codes (60_exceptions.md R321), the STATUS word
(10_state.md R33), when a staged key or schedule is complete (R323), and FAILMASK and ESYM of a composed decode
(43_composition.md R290). -/

namespace Sys2Proof.Machine

/-- The result codes that are written to STATUS.ERR (R321). Codes 5 to 15 are never written. -/
inductive ErrCode where
  /-- 0: success. -/
  | ok
  /-- 1: an illegal command word (R322). -/
  | illegal
  /-- 2: CipherConstructionError (R323). -/
  | construction
  /-- 3: UncorrectableSymbolError (R324). -/
  | uncorrectable
  /-- 4: CompositionDecodeError (R325). -/
  | composition
  deriving DecidableEq, Repr

/-- The code of R321. -/
def ErrCode.code : ErrCode → BitVec 4
  | .ok => 0
  | .illegal => 1
  | .construction => 2
  | .uncorrectable => 3
  | .composition => 4

/-- STATUS as a host reads it (R33): bits 31:13 are 0, then ESYM, ERR, WDROP, SO, KV, BUSY. -/
def Status.word (st : Status) : Word :=
  0#19 ++ st.esym ++ st.err ++ BitVec.ofBool st.wdrop ++ BitVec.ofBool st.so ++ BitVec.ofBool st.kv
    ++ BitVec.ofBool st.busy

/-- All eight staged key words have been written (R201, R323). -/
def keyComplete (keyWr : BitVec 8) : Bool := keyWr == 0xFF

/-- All 32 staged schedule words have been written (R208, R323). -/
def schedComplete (schedWr : BitVec 32) : Bool := schedWr == 0xFFFFFFFF

/-- `fm`: bit j is 1 exactly when slot j failed, bits N..15 are 0 (R41, R290). -/
def failMask {α : Type} {n : Nat} (res : Vector (Option α) n) : BitVec 16 :=
  BitVec.ofFnLE fun j : Fin 16 => if h : j.val < n then res[j.val].isNone else false

/-- ESYM of a failing composed decode: the lowest failing slot, `ctz(fm)` (R39, R290). -/
def firstFailing (fm : BitVec 16) : BitVec 5 := BitVec.ofNat 5 (ctz fm)

end Sys2Proof.Machine
end

