-- ==== Sys2Proof/Machine/Operands.lean ====
section
/-! DEFINITION. Machine/Operands.lean: every operand form. All operands are implicit (30_encoding.md R140): slices of DIN
for the cipher and the direct ECC commands, bytes of PBUF and symbols of a block for the composed ones. -/

namespace Sys2Proof.Machine

/-- `split64(x) = (x[63:32], x[31:0])`, (high, low) (40_cipher.md R160). -/
def split64 (x : Block) : Word × Word := (x.extractLsb' 32 32, x.extractLsb' 0 32)

/-- `join64(h, l) = h ++ l` (R161). -/
def join64 (h l : Word) : Block := h ++ l

/-- `split16x4(x)`: the four 16-bit quarters, most significant first (R162). -/
def split16x4 (x : Block) : Half × Half × Half × Half :=
  (x.extractLsb' 48 16, x.extractLsb' 32 16, x.extractLsb' 16 16, x.extractLsb' 0 16)

/-- `join16x4(q0, q1, q2, q3) = q0 ++ q1 ++ q2 ++ q3` (R162). -/
def join16x4 (q0 q1 q2 q3 : Half) : Block := q0 ++ q1 ++ q2 ++ q3

/-- Symbol `j` of width `w` of a block, most significant symbol first: `ct[63 - w*j : 64 - w*(j+1)]` (43_composition.md
R280). -/
def symbol (w : Nat) (ct : Block) (j : Nat) : BitVec w := ct.extractLsb' (64 - w * (j + 1)) w

/-- `DIN = x[DIN_HI] ++ x[DIN_LO]` (10_state.md R42): the operand of ENC, DEC and GENC.c. -/
def din (s : State) : Block := s.dinHi ++ s.dinLo

/-- `x[DIN_LO][3:0]`: HENC's symbol (42_ecc.md R236). -/
def dinNibble (s : State) : Nibble := s.dinLo.extractLsb' 0 4

/-- `x[DIN_LO][6:0]`: HDEC's codeword (R237). -/
def dinHWord (s : State) : HWord := s.dinLo.extractLsb' 0 7

/-- `x[DIN_LO][7:0]`: RENC's symbol, and byte 2 of RDEC's codeword (R243, R244). -/
def dinByte (s : State) : Byte := s.dinLo.extractLsb' 0 8

/-- `x[DIN_LO][15:8]`: byte 1 of RDEC's codeword (R244). -/
def dinByte1 (s : State) : Byte := s.dinLo.extractLsb' 8 8

/-- `x[DIN_LO][23:16]`: byte 0 of RDEC's codeword (R244). -/
def dinByte0 (s : State) : Byte := s.dinLo.extractLsb' 16 8

/-- `x[DIN_LO][15:0]`: PENC's symbol (R255). -/
def dinHalf (s : State) : Half := s.dinLo.extractLsb' 0 16

end Sys2Proof.Machine
end

