-- ==== Sys2Proof/Machine/RegMap.lean ====
section
/-! DEFINITION. Machine/RegMap.lean: the register map (10_state.md R31), and where the window stands on the bus (R30, R9). -/

namespace Sys2Proof.Machine

/-- A register of the window (R31). -/
inductive Reg where
  | cmd | status | failmask | dinHi | dinLo | doutHi | doutLo
  | keyStg (j : Fin 8)
  | keyWr | schedWr
  | schedStg (r : Fin 32)
  | rkey (r : Fin 32)
  | pbuf (k : Fin 24)
  | keyAct (j : Fin 8)
  | sboxStg (e : Fin 128)
  | sboxAct (e : Fin 128)
  deriving DecidableEq, Repr

/-- The offset of a register, as a number (R31). -/
def Reg.offsetNat : Reg → Nat
  | .cmd => 0x000
  | .status => 0x004
  | .failmask => 0x008
  | .dinHi => 0x010
  | .dinLo => 0x014
  | .doutHi => 0x018
  | .doutLo => 0x01C
  | .keyStg j => 0x020 + 4 * j.val
  | .keyWr => 0x040
  | .schedWr => 0x044
  | .schedStg r => 0x080 + 4 * r.val
  | .rkey r => 0x100 + 4 * r.val
  | .pbuf k => 0x180 + 4 * k.val
  | .keyAct j => 0x1E0 + 4 * j.val
  | .sboxStg e => 0x200 + 4 * e.val
  | .sboxAct e => 0x400 + 4 * e.val

/-- The offset of a register from `CFE_BASE` (R31). -/
def Reg.offset (r : Reg) : Offset := BitVec.ofNat 12 r.offsetNat

/-- The register that an aligned offset selects; `none` for a reserved offset (R31, R102). It is used for offsets with
`off mod 4 = 0` only (R100). -/
def regAt (off : Offset) : Option Reg :=
  let n := off.toNat
  if n < 0x004 then some .cmd
  else if n < 0x008 then some .status
  else if n < 0x00C then some .failmask
  else if n < 0x010 then none
  else if n < 0x014 then some .dinHi
  else if n < 0x018 then some .dinLo
  else if n < 0x01C then some .doutHi
  else if n < 0x020 then some .doutLo
  else if n < 0x040 then some (.keyStg (Fin.ofNat 8 ((n - 0x020) / 4)))
  else if n < 0x044 then some .keyWr
  else if n < 0x048 then some .schedWr
  else if n < 0x080 then none
  else if n < 0x100 then some (.schedStg (Fin.ofNat 32 ((n - 0x080) / 4)))
  else if n < 0x180 then some (.rkey (Fin.ofNat 32 ((n - 0x100) / 4)))
  else if n < 0x1E0 then some (.pbuf (Fin.ofNat 24 ((n - 0x180) / 4)))
  else if n < 0x200 then some (.keyAct (Fin.ofNat 8 ((n - 0x1E0) / 4)))
  else if n < 0x400 then some (.sboxStg (Fin.ofNat 128 ((n - 0x200) / 4)))
  else if n < 0x600 then some (.sboxAct (Fin.ofNat 128 ((n - 0x400) / 4)))
  else none

/-- An access the contract allows: "a single 32-bit access at an offset with `off mod 4 = 0`" (20_memory.md R100, R101). -/
def alignedWord (off : Offset) (width : Nat) : Bool := width == 4 && off.toNat % 4 == 0

/-- The bus address of an offset (R9, R30). -/
def busAddress (off : Offset) : Nat := Config.cfeBase + off.toNat

/-- The offset a bus address selects, where it lies in the window of 4096 bytes at `CFE_BASE` (R30). -/
def windowOffset (address : Nat) : Option Offset :=
  if Config.cfeBase ≤ address ∧ address < Config.cfeBase + 4096 then
    some (BitVec.ofNat 12 (address - Config.cfeBase))
  else none

end Sys2Proof.Machine
end

