-- ==== Sys2Proof/Machine/Ops.lean ====
section
/-! DEFINITION. Machine/Ops.lean: the named operations over the registers: completing a command and raising an error
(00_scope.md R15), the data and commit writes a command makes before it completes, and the host's reads and writes of
the register window (20_memory.md R102 to R107). -/

namespace Sys2Proof.Machine

/-- What a command or a turn answers. -/
abbrev Result := Host.Outcome State Fault Refusal

/-! ## Completion and errors -/

/-- `complete(err, esym, fmask)` (00_scope.md R15), with `pending <- empty` and BUSY <- 0 in the same update (20_memory.md
R110). KV, SO and WDROP stay. -/
def complete (e : ErrCode) (esym : BitVec 5) (fmask : BitVec 16) (s : State) : State :=
  { s with
    status := { s.status with busy := false, err := e.code, esym := esym }
    failmask := fmask
    pending := none }

/-- `complete(OK) = complete(0, 0, 0)` (R15): a command ends with success in `s`, to which its other writes are made. -/
def finish (s : State) : Result := .next (complete .ok 0 0 s)

/-- `raise E(info)` (R15): error entry. The CFE "saves only STATUS.ERR, STATUS.ESYM and FAILMASK", changes no mode and
transfers control nowhere (60_exceptions.md R328); it is a next state. There is no return-from-error command: "An error is
cleared when the next command completes" (R329), which `complete` does. -/
def raiseError (e : ErrCode) (esym : BitVec 5) (fmask : BitVec 16) (s : State) : Result :=
  .next (complete e esym fmask s)

/-! ## The writes a command makes -/

/-- `(x[DOUT_HI], x[DOUT_LO]) <- split64(y)` (40_cipher.md R175, 43_composition.md R290). -/
def writeDout (y : Block) (s : State) : State :=
  { s with doutHi := (split64 y).1, doutLo := (split64 y).2 }

/-- `x[DOUT_HI] <- 0; x[DOUT_LO] <- v`: the result of a direct ECC command (42_ecc.md R236 to R256). -/
def writeDoutLow (v : Word) (s : State) : State := { s with doutHi := 0, doutLo := v }

/-- `for k in 0..L-1: x[PBUF(k)] <- bytes[k]`; PBUF(L..23) unchanged (43_composition.md R282). -/
def writePbuf {L : Nat} (bytes : Vector Byte L) (s : State) : State :=
  { s with pbuf := Vector.ofFn fun k : Fin 24 => if h : k.val < L then bytes[k.val] else s.pbuf[k.val] }

/-- The writes every commit makes (41_configuration.md R201, R205, R208): the active key and schedule, the active S-box
from the staged one, KV <- 1 and SO. -/
def commit (key : Vector Word 8) (sched : Vector Word 32) (so : Bool) (s : State) : State :=
  { s with
    keyAct := key
    rkey := sched
    sboxAct := s.sboxStg
    status := { s.status with kv := true, so := so } }

/-! ## The host's side -/

/-- The value a host reads from a register, reserved bits 0 (20_memory.md R107); CMD reads 0 (R104). -/
def readReg (r : Reg) (s : State) : Word :=
  match r with
  | .cmd => 0
  | .status => s.status.word
  | .failmask => s.failmask.setWidth 32
  | .dinHi => s.dinHi
  | .dinLo => s.dinLo
  | .doutHi => s.doutHi
  | .doutLo => s.doutLo
  | .keyStg j => s.keyStg[j.val]
  | .keyWr => s.keyWr.setWidth 32
  | .schedWr => s.schedWr
  | .schedStg r => s.schedStg[r.val]
  | .rkey r => s.rkey[r.val]
  | .pbuf k => s.pbuf[k.val].setWidth 32
  | .keyAct j => s.keyAct[j.val]
  | .sboxStg e => s.sboxStg[e.val].setWidth 32
  | .sboxAct e => s.sboxAct[e.val].setWidth 32

/-- The value of `BusRead(off, 4)`; a reserved offset reads 0 (R102). -/
def busRead (off : Offset) (s : State) : Word :=
  match regAt off with
  | some r => readReg r s
  | none => 0

/-- Accept `v` as the command word: BUSY <- 1, `pending <- v` (10_state.md R32). -/
def acceptCommand (v : Word) (s : State) : State :=
  { s with pending := some v, status := { s.status with busy := true } }

/-- The effect of a host write to a register while BUSY = 0 (R106 and the rules it lists); a read-only register ignores it
(R103). -/
def writeReg (r : Reg) (v : Word) (s : State) : State :=
  match r with
  | .cmd => acceptCommand v s
  | .status => { s with status := { s.status with wdrop := s.status.wdrop && !v.getLsbD 3 } }
  | .dinHi => { s with dinHi := v }
  | .dinLo => { s with dinLo := v }
  | .keyStg j => { s with keyStg := s.keyStg.set j.val v, keyWr := s.keyWr ||| (1#8 <<< j.val) }
  | .schedStg r => { s with schedStg := s.schedStg.set r.val v, schedWr := s.schedWr ||| (1#32 <<< r.val) }
  | .pbuf k => { s with pbuf := s.pbuf.set k.val (v.extractLsb' 0 8) }
  | .sboxStg e => { s with sboxStg := s.sboxStg.set e.val (v.extractLsb' 0 4) }
  | .failmask => s
  | .doutHi => s
  | .doutLo => s
  | .keyWr => s
  | .schedWr => s
  | .rkey _ => s
  | .keyAct _ => s
  | .sboxAct _ => s

/-- A write dropped because BUSY is 1: only WDROP changes, to 1 (20_memory.md R105). -/
def dropWrite (s : State) : State := { s with status := { s.status with wdrop := true } }

/-- `BusWrite(off, 4, v)` (R103, R105, R106): dropped while BUSY = 1, to any offset; ignored at a reserved offset. -/
def busWrite (off : Offset) (v : Word) (s : State) : State :=
  if s.status.busy then dropWrite s
  else match regAt off with
    | some r => writeReg r v s
    | none => s

/-- The reset input (70_reset_and_hazards.md R350, R351): every register to its reset value, whatever the state was and
whether or not a command is pending. The outside world's side of the port is not the CFE's to reset. -/
def assertReset (s : State) : State := { State.reset with port := s.port }

/-- The turns to come are now `ts`. -/
def setTurns (ts : List Turn) (s : State) : State := { s with port := { s.port with turns := ts } }

/-- A read has returned `v` to the host. -/
def reply (v : Word) (s : State) : State := { s with port := { s.port with replies := v :: s.port.replies } }

/-- An accepted command whose completion is the very next step: `pending` and BUSY as after its acceptance (R32), and the
engine's turn first. -/
def placeCommand (w : Word) (s : State) : State :=
  setTurns (.engine :: s.port.turns) (acceptCommand w s)

end Sys2Proof.Machine
end

