-- ==== Sys2Proof/Machine/Cipher.lean ====
section
/-! DEFINITION. Machine/Cipher.lean: the block cipher (40_cipher.md): the pure datapath R163 to R169, in the spec's names,
and the commands ENC (R175) and DEC (R176). -/

namespace Sys2Proof.Machine

/-- `S(i, v) = x[SBOX_ACT(16*i + v)]` (R163). -/
def sboxLookup (sbox : Vector Nibble 128) (i : Fin 8) (v : Nibble) : Nibble :=
  sbox[16 * i.val + v.toNat]'(by have := i.isLt; have := v.isLt; omega)

/-- `Tsub(a)` (R164): nibble i of `a`, least significant first, through row i, in place. -/
def tsub (sbox : Vector Nibble 128) (a : Word) : Word :=
  sboxLookup sbox 7 (a.extractLsb' 28 4) ++ sboxLookup sbox 6 (a.extractLsb' 24 4) ++
  sboxLookup sbox 5 (a.extractLsb' 20 4) ++ sboxLookup sbox 4 (a.extractLsb' 16 4) ++
  sboxLookup sbox 3 (a.extractLsb' 12 4) ++ sboxLookup sbox 2 (a.extractLsb' 8 4) ++
  sboxLookup sbox 1 (a.extractLsb' 4 4) ++ sboxLookup sbox 0 (a.extractLsb' 0 4)

/-- `gfun(k, a) = rotl32(Tsub(k +32 a), 11)` (R165). The sum wraps. -/
def gfun (sbox : Vector Nibble 128) (k a : Word) : Word := rotl32 (tsub sbox (k + a)) 11

/-- `Ground(k, (h, l)) = (l, gfun(k, l) xor h)` (R166). -/
def ground (sbox : Vector Nibble 128) (k : Word) (hl : Word × Word) : Word × Word :=
  (hl.2, gfun sbox k hl.2 ^^^ hl.1)

/-- `Sched(K)` (R167): K[r mod 8] for r = 0..23, K[31 - r] for r = 24..31. -/
def sched (key : Vector Word 8) : Vector Word 32 :=
  Vector.ofFn fun r : Fin 32 =>
    if h : r.val < 24 then key[r.val % 8] else key[31 - r.val]

/-- The rounds under the round keys of `ks`, in the list's order (R168, R169). -/
def rounds (sbox : Vector Nibble 128) (ks : List Word) (hl : Word × Word) : Word × Word :=
  ks.foldl (fun hl k => ground sbox k hl) hl

/-- The common shape of R168 and R169: split, the rounds in the list's order, and the join with the halves swapped. -/
def feistel (sbox : Vector Nibble 128) (ks : List Word) (x : Block) : Block :=
  let hl := rounds sbox ks (split64 x)
  join64 hl.2 hl.1

/-- `Encrypt(RK, x)` (R168): the round keys in ascending order. -/
def encrypt (sbox : Vector Nibble 128) (rk : Vector Word 32) (x : Block) : Block := feistel sbox rk.toList x

/-- `Decrypt(RK, x)` (R169): the round keys in descending order. -/
def decrypt (sbox : Vector Nibble 128) (rk : Vector Word 32) (x : Block) : Block := feistel sbox rk.toList.reverse x

/-- ENC (R175). -/
def execEnc (s : State) : Result :=
  if s.status.kv then finish (writeDout (encrypt s.sboxAct s.rkey (din s)) s)
  else raiseError .construction 0 0 s

/-- DEC (R176). -/
def execDec (s : State) : Result :=
  if s.status.kv then finish (writeDout (decrypt s.sboxAct s.rkey (din s)) s)
  else raiseError .construction 0 0 s

end Sys2Proof.Machine
end

