-- ==== Sys2Proof/Machine/Ecc.lean ====
section
/-! DEFINITION. Machine/Ecc.lean: the three codecs as pure functions (42_ecc.md), `none` for `fail` (R230), and the six
direct commands. None of them reads KV, the key, the schedule or the S-box (R230). -/

namespace Sys2Proof.Machine

/-! ## Hamming(7,4) -/

/-- `HEnc(n)` (R231, R232): d1 = n[3], d2 = n[2], d3 = n[1], d4 = n[0]; the codeword is p1 p2 d1 p3 d2 d3 d4, most
significant first. -/
def hEnc (n : Nibble) : HWord :=
  let d1 := n.getLsbD 3
  let d2 := n.getLsbD 2
  let d3 := n.getLsbD 1
  let d4 := n.getLsbD 0
  let p1 := d1 ^^ d2 ^^ d4
  let p2 := d1 ^^ d3 ^^ d4
  let p3 := d2 ^^ d3 ^^ d4
  BitVec.ofBool p1 ++ BitVec.ofBool p2 ++ BitVec.ofBool d1 ++ BitVec.ofBool p3 ++ BitVec.ofBool d2
    ++ BitVec.ofBool d3 ++ BitVec.ofBool d4

/-- `syn(c) = s3 ++ s2 ++ s1` (R233). -/
def hSyndrome (c : HWord) : BitVec 3 :=
  let s1 := c.getLsbD 6 ^^ c.getLsbD 4 ^^ c.getLsbD 2 ^^ c.getLsbD 0
  let s2 := c.getLsbD 5 ^^ c.getLsbD 4 ^^ c.getLsbD 1 ^^ c.getLsbD 0
  let s3 := c.getLsbD 3 ^^ c.getLsbD 2 ^^ c.getLsbD 1 ^^ c.getLsbD 0
  BitVec.ofBool s3 ++ BitVec.ofBool s2 ++ BitVec.ofBool s1

/-- `HDec(c)` (R234): flip the bit the syndrome names, then take d1 d2 d3 d4. It never fails. -/
def hDec (c : HWord) : Nibble :=
  let syn := hSyndrome c
  let fixed := if syn = 0 then c else c ^^^ (1#7 <<< (7 - syn.toNat))
  fixed.extractLsb' 4 1 ++ fixed.extractLsb' 2 1 ++ fixed.extractLsb' 1 1 ++ fixed.extractLsb' 0 1

/-- HENC (R236). -/
def execHenc (s : State) : Result := finish (writeDoutLow ((hEnc (dinNibble s)).setWidth 32) s)

/-- HDEC (R237). -/
def execHdec (s : State) : Result := finish (writeDoutLow ((hDec (dinHWord s)).setWidth 32) s)

/-! ## Repetition(3) -/

/-- `REnc(b)` as the 24-bit value `b ++ b ++ b` (R240). -/
def rEnc (b : Byte) : BitVec 24 := b ++ b ++ b

/-- `RDec(b0, b1, b2)` (R241): a majority vote on whole bytes. -/
def rDec (b0 b1 b2 : Byte) : Option Byte :=
  if b0 = b1 ∨ b0 = b2 then some b0
  else if b1 = b2 then some b1
  else none

/-- RENC (R243). -/
def execRenc (s : State) : Result := finish (writeDoutLow ((rEnc (dinByte s)).setWidth 32) s)

/-- RDEC (R244). -/
def execRdec (s : State) : Result :=
  match rDec (dinByte0 s) (dinByte1 s) (dinByte s) with
  | some b => finish (writeDoutLow (b.setWidth 32) s)
  | none => raiseError .uncorrectable 0 0 s

/-! ## Parity16 -/

/-- `DPOS`: the position of data bit j (R250). -/
def dataPositions : Vector Nat 16 := #v[0, 3, 5, 6, 7, 9, 10, 11, 12, 13, 14, 15, 17, 18, 19, 20]

/-- Position p of `c` becomes `b`, where it is still 0. -/
def putBit (c : Word) (p : Nat) (b : Bool) : Word := c ||| ((BitVec.ofBool b).setWidth 32 <<< p)

/-- The parity of positions [0, k) of a codeword (R251, R252). -/
def prefixParity (c : Word) (k : Nat) : Bool := parity (c.extractLsb' 0 k)

/-- The data bits at their positions, the parity positions 0: the first loop of `PEnc` (R251). -/
def pPlaceData (d : Half) : Word :=
  (List.finRange 16).foldl (fun c j => putBit c dataPositions[j.val] (d.getLsbD j.val)) 0

/-- Parity bit i at position 2^i, over the codeword so far (R251). -/
def pPlaceParity (c : Word) (i : Nat) : Word := putBit c (2 ^ i) (prefixParity c (2 ^ i))

/-- `PEnc(d)` (R251): the data bits, then the parity bits 0..4 in ascending order. -/
def pEnc (d : Half) : Word := (List.range 5).foldl pPlaceParity (pPlaceData d)

/-- `psyn(c) = s_4 ++ s_3 ++ s_2 ++ s_1 ++ s_0`, `s_i = parity(c[2^i : 0])` (R252). -/
def pSyndrome (c : Word) : BitVec 5 := BitVec.ofFnLE fun i : Fin 5 => prefixParity c (2 ^ i.val + 1)

/-- The data bits of a codeword: d[j] = c[DPOS[j]] (R253). -/
def pData (c : Word) : Half := BitVec.ofFnLE fun j : Fin 16 => c.getLsbD dataPositions[j.val]

/-- `PDec(c)` (R253): detect-only, on c[20:0]. -/
def pDec (c : Word) : Option Half :=
  let c21 := (c.extractLsb' 0 21).setWidth 32
  if pSyndrome c21 ≠ 0 then none else some (pData c21)

/-- PENC (R255). -/
def execPenc (s : State) : Result := finish (writeDoutLow (pEnc (dinHalf s)) s)

/-- PDEC (R256). -/
def execPdec (s : State) : Result :=
  match pDec s.dinLo with
  | some d => finish (writeDoutLow (d.setWidth 32) s)
  | none => raiseError .uncorrectable 0 0 s

end Sys2Proof.Machine
end

