-- ==== Sys2Proof/Machine/Composition.lean ====
section
/-! DEFINITION. Machine/Composition.lean: the composed commands (43_composition.md): framing a ciphertext into PBUF
(R281), GENC.c (R282 to R285), reading it back (R286, R287) and GDEC.c (R290 to R293). -/

namespace Sys2Proof.Machine

/-! ## Framing and GENC.c -/

/-- `Frame_H(ct)` (R281): one byte per nibble, the codeword in bits 6:0 and bit 7 = 0. -/
def frameH (ct : Block) : Vector Byte 16 :=
  Vector.ofFn fun j : Fin 16 => (hEnc (symbol 4 ct j.val)).setWidth 8

/-- `Frame_R(ct)` (R281): symbol k / 3 in each of bytes 3j, 3j+1, 3j+2. -/
def frameR (ct : Block) : Vector Byte 24 :=
  Vector.ofFn fun k : Fin 24 => symbol 8 ct (k.val / 3)

/-- `Frame_P(ct)` (R281): the codeword of symbol k / 4, big-endian in bytes 4j to 4j+3. -/
def frameP (ct : Block) : Vector Byte 16 :=
  Vector.ofFn fun k : Fin 16 => byteOfWord (pEnc (symbol 16 ct (k.val / 4))) (k.val % 4)

/-- The common GENC.c procedure (R282), for the framing of codec c. DOUT is not written. -/
def genc {L : Nat} (frame : Block → Vector Byte L) (s : State) : Result :=
  if s.status.kv then finish (writePbuf (frame (encrypt s.sboxAct s.rkey (din s))) s)
  else raiseError .construction 0 0 s

/-- GENC.H (R283). -/
def execGencH (s : State) : Result := genc frameH s

/-- GENC.R (R284). -/
def execGencR (s : State) : Result := genc frameR s

/-- GENC.P (R285). -/
def execGencP (s : State) : Result := genc frameP s

/-! ## Deframing and GDEC.c -/

/-- `Unframe_H` (R286): bit 7 of each byte is ignored, and no slot fails. -/
def unframeH (p : Vector Byte 24) : Vector (Option Nibble) 16 :=
  Vector.ofFn fun j : Fin 16 => some (hDec (p[j.val].extractLsb' 0 7))

/-- `Unframe_R` (R286). -/
def unframeR (p : Vector Byte 24) : Vector (Option Byte) 8 :=
  Vector.ofFn fun j : Fin 8 => rDec p[3 * j.val] p[3 * j.val + 1] p[3 * j.val + 2]

/-- `Unframe_P` (R286): each codeword big-endian in its four bytes. -/
def unframeP (p : Vector Byte 24) : Vector (Option Half) 4 :=
  Vector.ofFn fun j : Fin 4 =>
    pDec (wordOfBytes p[4 * j.val] p[4 * j.val + 1] p[4 * j.val + 2] p[4 * j.val + 3])

/-- The symbols concatenated, symbol 0 in the top bits (R287). It is used when every result is `ok`. -/
def joinSymbols {w n : Nat} (res : Vector (Option (BitVec w)) n) : Block :=
  res.toList.foldl (fun acc r => (acc <<< w) ||| (r.getD 0).setWidth 64) 0

/-- The common GDEC.c procedure (R290), for the slot results of codec c. PBUF is not changed. -/
def gdec {w n : Nat} (unframe : Vector Byte 24 → Vector (Option (BitVec w)) n) (s : State) : Result :=
  if s.status.kv then
    let res := unframe s.pbuf
    let fm := failMask res
    if fm ≠ 0 then raiseError .composition (firstFailing fm) fm s
    else finish (writeDout (decrypt s.sboxAct s.rkey (joinSymbols res)) s)
  else raiseError .construction 0 0 s

/-- GDEC.H (R291). -/
def execGdecH (s : State) : Result := gdec unframeH s

/-- GDEC.R (R292). -/
def execGdecR (s : State) : Result := gdec unframeR s

/-- GDEC.P (R293). -/
def execGdecP (s : State) : Result := gdec unframeP s

end Sys2Proof.Machine
end

