-- ==== Sys2Proof/Machine/Construction.lean ====
section
/-! DEFINITION. Machine/Construction.lean: the commit commands REKEY, REKEY.Z and LOADSCHED (41_configuration.md). -/

namespace Sys2Proof.Machine

/-- REKEY (R201). KEY_STG, SCHED_STG and SCHED_WR stay. -/
def execRekey (s : State) : Result :=
  if keyComplete s.keyWr then finish (commit s.keyStg (sched s.keyStg) false { s with keyWr := 0 })
  else raiseError .construction 0 0 s

/-- REKEY.Z (R205). KEY_STG and KEY_WR are neither read nor changed. -/
def execRekeyZ (s : State) : Result :=
  finish (commit (Vector.replicate 8 0) (Vector.replicate 32 0) false s)

/-- LOADSCHED (R208). The override is used as given, and the active key is zeroed. -/
def execLoadsched (s : State) : Result :=
  if schedComplete s.schedWr then finish (commit (Vector.replicate 8 0) s.schedStg true { s with schedWr := 0 })
  else raiseError .construction 0 0 s

end Sys2Proof.Machine
end

