-- ==== Sys2Proof/Machine/Dispatch.lean ====
section
/-! DEFINITION. Machine/Dispatch.lean: the completion of a command (20_memory.md R110), one arm per command. -/

namespace Sys2Proof.Machine

/-- The completion of command `i` in state `s`: all its writes, `pending <- empty` and BUSY <- 0 as one update (R110). -/
def exec (i : Instr) (s : State) : Host.Outcome State Fault Refusal :=
  match i with
  | .enc => Sys2Proof.Machine.execEnc s
  | .dec => Sys2Proof.Machine.execDec s
  | .rekey => Sys2Proof.Machine.execRekey s
  | .rekeyZ => Sys2Proof.Machine.execRekeyZ s
  | .loadsched => Sys2Proof.Machine.execLoadsched s
  | .henc => Sys2Proof.Machine.execHenc s
  | .hdec => Sys2Proof.Machine.execHdec s
  | .renc => Sys2Proof.Machine.execRenc s
  | .rdec => Sys2Proof.Machine.execRdec s
  | .penc => Sys2Proof.Machine.execPenc s
  | .pdec => Sys2Proof.Machine.execPdec s
  | .gencH => Sys2Proof.Machine.execGencH s
  | .gencR => Sys2Proof.Machine.execGencR s
  | .gencP => Sys2Proof.Machine.execGencP s
  | .gdecH => Sys2Proof.Machine.execGdecH s
  | .gdecR => Sys2Proof.Machine.execGdecR s
  | .gdecP => Sys2Proof.Machine.execGdecP s

end Sys2Proof.Machine
end

