-- ==== Sys2Proof/Machine/Turns.lean ====
section
/-! DEFINITION. Machine/Turns.lean: what one turn does: a host access (20_memory.md R100 to R107), the engine's completion
step (R110) or the reset input (70_reset_and_hazards.md R350). -/

namespace Sys2Proof.Machine

/-- The engine's only step (R110): "enabled exactly when `pending` is non-empty", it performs the rule of the pending
word; an illegal word completes with ILLEGAL (30_encoding.md R137). With nothing pending the engine is not enabled and the
state stays (60_exceptions.md R335). -/
def engineTurn (s : State) : Result :=
  match s.pending with
  | none => .next s
  | some w =>
    match decode w with
    | .ok i => exec i s
    | .error _ => raiseError .illegal 0 0 s

/-- `BusRead(off, width)` (R107): the value goes to the host and no register changes; refused by name unless it is an
aligned 32-bit access (R101). -/
def readTurn (off : Offset) (width : Nat) (s : State) : Result :=
  if alignedWord off width then .next (reply (busRead off s) s)
  else .refused (.notAlignedWordAccess off width)

/-- `BusWrite(off, width, v)` (R103, R105, R106), refused by name unless it is an aligned 32-bit access (R101). -/
def writeTurn (off : Offset) (width : Nat) (v : Word) (s : State) : Result :=
  if alignedWord off width then .next (busWrite off v s)
  else .refused (.notAlignedWordAccess off width)

/-- One turn. -/
def takeTurn (t : Turn) (s : State) : Result :=
  match t with
  | .read off width => readTurn off width s
  | .write off width v => writeTurn off width v s
  | .engine => engineTurn s
  | .reset => .next (assertReset s)

/-- The bits of an instruction of `nbits` bits, as the command word it is (30_encoding.md R130). -/
def commandWord (nbits w : Nat) : Word := BitVec.ofNat 32 (w % 2 ^ nbits)

end Sys2Proof.Machine
end

