-- ==== Sys2Proof/Machine/Step.lean ====
section
/-! DEFINITION. Machine/Step.lean: one step of the model, and where a command stands when it is the next to run. -/

namespace Sys2Proof.Machine

/-- "A model step is either one host access or one completion" (70_reset_and_hazards.md R366). The next turn of the port
says which; when the outside world has no further turn the engine moves, so a pending command always completes (R365). -/
def step (s : State) : Host.Outcome State Fault Refusal :=
  match s.port.turns with
  | [] => engineTurn s
  | t :: rest => takeTurn t (setTurns rest s)

/-- The CFE fetches nothing: a command is the word its host wrote to CMD. `s` with the command of `nbits` bits accepted
(`pending`, BUSY: R32) and the engine's turn next, so that the very next step completes it (log entry 2). -/
def State.withFetchWord (s : State) (nbits w : Nat) : State := placeCommand (commandWord nbits w) s

end Sys2Proof.Machine
end

