-- ==== Sys2Proof/Machine/HostProgram.lean ====
section
/-! DEFINITION. Machine/HostProgram.lean: the host-program notation (30_encoding.md R141, R142) as lists of turns. A program is
placed in `port.turns` of a state from outside; the engine's turns stand where the completions fall among the host's
accesses. -/

namespace Sys2Proof.Machine

/-- The mnemonic of a command (R136). -/
def mnemonic : Instr → String
  | .enc => "ENC"
  | .dec => "DEC"
  | .rekey => "REKEY"
  | .rekeyZ => "REKEY.Z"
  | .loadsched => "LOADSCHED"
  | .henc => "HENC"
  | .hdec => "HDEC"
  | .renc => "RENC"
  | .rdec => "RDEC"
  | .penc => "PENC"
  | .pdec => "PDEC"
  | .gencH => "GENC.H"
  | .gencR => "GENC.R"
  | .gencP => "GENC.P"
  | .gdecH => "GDEC.H"
  | .gdecR => "GDEC.R"
  | .gdecP => "GDEC.P"

/-- `WR <reg>, <imm32>` is `BusWrite(offset(reg), 4, imm32)` (R141). -/
def wr (r : Reg) (v : Word) : List Turn := [.write r.offset 4 v]

/-- `RD <reg>` is `BusRead(offset(reg), 4)` (R141); `EXPECT` is a plain read on the bus (R142). -/
def rd (r : Reg) : List Turn := [.read r.offset 4]

/-- `CMD <mnemonic>` is `BusWrite(0x000, 4, word(mnemonic))` (R141). -/
def cmd (i : Instr) : List Turn := [.write 0x000 4 (encode i)]

/-- `WAIT` (R142), the polling loop on STATUS, in a run in which `polls` reads come before the completion and one after it. How
many depends on LAT (70_reset_and_hazards.md R364). -/
def wait (polls : Nat) : List Turn :=
  List.replicate polls (.read Reg.status.offset 4) ++ [.engine, .read Reg.status.offset 4]

/-- `EXEC <mnemonic>` is `CMD <mnemonic>` then `WAIT` (R142). -/
def execCmd (i : Instr) (polls : Nat) : List Turn := cmd i ++ wait polls

/-- `LDKEY k0..k7` is `WR KEY_STG(0), k0` … `WR KEY_STG(7), k7` (R142). -/
def ldkey (k : Vector Word 8) : List Turn :=
  (List.finRange 8).flatMap fun j => wr (.keyStg j) k[j.val]

/-- The override path's 32 writes `WR SCHED_STG(r), ks[r]` (70_reset_and_hazards.md R354). -/
def ldsched (ks : Vector Word 32) : List Turn :=
  (List.finRange 32).flatMap fun r => wr (.schedStg r) ks[r.val]

/-- The 128 writes of a custom S-box, `WR SBOX_STG(e), sb[e]` (R354, R356). -/
def ldsbox (sb : Vector Nibble 128) : List Turn :=
  (List.finRange 128).flatMap fun e => wr (.sboxStg e) (sb[e.val].setWidth 32)

/-- The host's program `ts` is what the outside world does next. -/
def withProgram (ts : List Turn) (s : State) : State := setTurns ts s

end Sys2Proof.Machine
end

