-- ==== Sys2Proof/Safety.lean ====
section
/-! DEFINITION. Safety.lean: the terms the claims use: the state after a completion, the invariant of every reachable state,
which host accesses are in the contract, and which states can be reached. -/

namespace Sys2Proof.Machine

/-- `s` after `complete(OK)` with no other write (00_scope.md R15). -/
def completedOk (s : State) : State :=
  { s with
    pending := none
    failmask := 0
    status := { s.status with busy := false, err := 0, esym := 0 } }

/-- `s` after `complete(code, esym, fmask)` with no other write: how a failing command leaves it (60_exceptions.md R328). -/
def completedErr (code : BitVec 4) (esym : BitVec 5) (fmask : BitVec 16) (s : State) : State :=
  { s with
    pending := none
    failmask := fmask
    status := { s.status with busy := false, err := code, esym := esym } }

/-- What holds of every reachable state. -/
structure StateInv (s : State) : Prop where
  /-- BUSY = 1 exactly when `pending` is non-empty (10_state.md R55). -/
  busy_iff_pending : s.status.busy = s.pending.isSome
  /-- Codes 5 to 15 are never written to ERR (R38). -/
  err_in_range : s.status.err.toNat ≤ 4
  /-- With ERR other than COMPOSITION, ESYM and FAILMASK are 0 (R39, R41). -/
  no_failing_symbol : s.status.err ≠ 4 → s.status.esym = 0 ∧ s.failmask = 0
  /-- With ERR = COMPOSITION, ESYM is the index of FAILMASK's lowest one bit (R39). -/
  first_failing_symbol : s.status.err = 4 →
    s.status.esym.toNat < 16 ∧ s.failmask.getLsbD s.status.esym.toNat = true ∧
      ∀ j < s.status.esym.toNat, s.failmask.getLsbD j = false
  /-- SO = 1 only after a commit (R35, R36). -/
  override_after_commit : s.status.so = true → s.status.kv = true
  /-- With SO = 0 the active schedule is that of the active key (R53). -/
  schedule_of_key : s.status.so = false → s.rkey = sched s.keyAct
  /-- With KV = 0 the active stores are as after reset (R54). -/
  stores_before_commit : s.status.kv = false →
    s.keyAct = Vector.replicate 8 0 ∧ s.rkey = Vector.replicate 32 0 ∧ s.sboxAct = defaultSbox

/-- A turn the interface contract allows: every host access is an aligned 32-bit access (20_memory.md R100, R101). -/
def Turn.inContract : Turn → Bool
  | .read off width => alignedWord off width
  | .write off width _ => alignedWord off width
  | .engine => true
  | .reset => true

/-- The turn is a host access. -/
def Turn.isAccess : Turn → Bool
  | .read _ _ => true
  | .write _ _ _ => true
  | .engine => false
  | .reset => false

/-- The turn is a host write. -/
def Turn.isWrite : Turn → Bool
  | .write _ _ _ => true
  | .read _ _ => false
  | .engine => false
  | .reset => false

/-- A run that stays in the contract: no turn to come is refused. -/
def InContract (s : State) : Prop := ∀ t ∈ s.port.turns, t.inContract = true

/-- The engine moves next: it is its turn, or the outside world has none left. -/
def EngineMoves (s : State) : Prop := s.port.turns = [] ∨ ∃ rest, s.port.turns = .engine :: rest

/-- The states that can be reached from reset, whatever the outside world does: it may change what it does next at any
time. -/
inductive Reachable : State → Prop where
  /-- After reset. -/
  | reset : Reachable State.reset
  /-- The outside world decides what it does next. -/
  | world (s : State) (ts : List Turn) : Reachable s → Reachable (withProgram ts s)
  /-- One step. -/
  | step (s t : State) : Reachable s → Sys2Proof.Machine.step s = .next t → Reachable t

end Sys2Proof.Machine
end

