-- ==== Sys2Proof/Certificates/Slice0/Obligations.lean ====
section
/-! DEFINITION. Certificates/Slice0/Obligations.lean: the statements about the CFE, from the numbered rules of spec/. A state
after a completion is written as `completedOk` or `completedErr` (Safety.lean) with the other registers the rule writes, so
each such equation also says that every register it does not name is unchanged. -/

open Sys2Proof
open Sys2Proof.Machine

/-! ## Reset -/

/-- 10_state.md R59: the value of every register after reset; the S-box stores hold the table of R58. -/
def Obligations.ResetLeavesEveryRegisterAtItsValue : Prop :=
  let sbox : List Nibble :=
    [12, 4, 6, 2, 10, 5, 11, 9, 14, 8, 13, 7, 0, 3, 15, 1] ++ [6, 8, 2, 3, 9, 10, 5, 12, 1, 14, 4, 7, 11, 13, 0, 15] ++
    [11, 3, 5, 8, 2, 15, 10, 13, 14, 1, 7, 4, 12, 9, 6, 0] ++ [12, 8, 2, 1, 13, 4, 15, 6, 7, 0, 10, 5, 3, 14, 9, 11] ++
    [7, 15, 5, 10, 8, 1, 6, 13, 0, 9, 3, 14, 11, 4, 2, 12] ++ [5, 13, 15, 6, 9, 2, 12, 10, 11, 7, 8, 1, 4, 3, 14, 0] ++
    [8, 14, 2, 5, 6, 9, 1, 12, 15, 4, 11, 0, 13, 10, 3, 7] ++ [1, 7, 14, 13, 0, 5, 8, 3, 4, 15, 10, 6, 9, 12, 11, 2]
  State.reset.pending = none ∧
  State.reset.status = { busy := false, kv := false, so := false, wdrop := false, err := 0, esym := 0 } ∧
  State.reset.failmask = 0 ∧ State.reset.dinHi = 0 ∧ State.reset.dinLo = 0 ∧
  State.reset.doutHi = 0 ∧ State.reset.doutLo = 0 ∧
  (∀ j (h : j < 8), State.reset.keyStg[j] = 0 ∧ State.reset.keyAct[j] = 0) ∧ State.reset.keyWr = 0 ∧
  (∀ r (h : r < 32), State.reset.schedStg[r] = 0 ∧ State.reset.rkey[r] = 0) ∧ State.reset.schedWr = 0 ∧
  (∀ k (h : k < 24), State.reset.pbuf[k] = 0) ∧
  State.reset.sboxStg.toList = sbox ∧ State.reset.sboxAct.toList = sbox

/-- 70_reset_and_hazards.md R350, R351: the reset input gives the reset state from every state, a command pending or
not. (That the outside world's turns and replies stay is the model's choice, log entry 1.) -/
def Obligations.ResetInputGivesTheResetStateFromEveryState : Prop :=
  ∀ (s : State) (rest : List Turn),
    step (setTurns (.reset :: rest) s) = .next { State.reset with port := { s.port with turns := rest } }

/-! ## Command words -/

/-- 30_encoding.md R136: a few words of the opcode map, one and more of each family. -/
def Obligations.WordsOfTheOpcodeMapDecode : Prop :=
  decode 0x00000001 = .ok .enc ∧ decode 0x00000002 = .ok .dec ∧ decode 0x00000003 = .ok .rekey ∧
  decode 0x00000403 = .ok .rekeyZ ∧ decode 0x00000004 = .ok .loadsched ∧ decode 0x00000011 = .ok .hdec ∧
  decode 0x00000012 = .ok .renc ∧ decode 0x00000015 = .ok .pdec ∧ decode 0x00000120 = .ok .gencR ∧
  decode 0x00000221 = .ok .gdecP

/-- R139 against R136 and R137, over every 32-bit word: the decoding procedure accepts exactly the 17 words of the map, each
as its command; and the encoder's word of every command is decoded to it. -/
def Obligations.DecodeAcceptsExactlyTheSeventeenWords : Prop :=
  (∀ (c : Word) (i : Instr), decode c = .ok i ↔
    (i, c) ∈ ([(.enc, 0x00000001), (.dec, 0x00000002), (.rekey, 0x00000003), (.rekeyZ, 0x00000403),
      (.loadsched, 0x00000004), (.henc, 0x00000010), (.hdec, 0x00000011), (.renc, 0x00000012), (.rdec, 0x00000013),
      (.penc, 0x00000014), (.pdec, 0x00000015), (.gencH, 0x00000020), (.gencR, 0x00000120), (.gencP, 0x00000220),
      (.gdecH, 0x00000021), (.gdecR, 0x00000121), (.gdecP, 0x00000221)] : List (Instr × Word))) ∧
  ∀ i : Instr, decode (encode i) = .ok i

/-- R137, R322: a pending word that is none of the 17 completes with ILLEGAL at the engine's turn, whatever the state, and
writes nothing else. -/
def Obligations.IllegalWordCompletesWithIllegalAlone : Prop :=
  ∀ (s : State) (w : Word), s.pending = some w → EngineMoves s →
    w ∉ ([0x00000001, 0x00000002, 0x00000003, 0x00000403, 0x00000004, 0x00000010, 0x00000011, 0x00000012, 0x00000013,
      0x00000014, 0x00000015, 0x00000020, 0x00000120, 0x00000220, 0x00000021, 0x00000121, 0x00000221] : List Word) →
    step s = .next (completedErr 1 0 0 (setTurns s.port.turns.tail s))

/-- 20_memory.md R110: when the engine moves and the pending word decodes to a command, the step is that command's
completion in this state (its turn consumed); with nothing pending the engine's turn changes no register. -/
def Obligations.StepCompletesThePendingCommand : Prop :=
  ∀ s : State, EngineMoves s →
    (∀ w i, s.pending = some w → decode w = .ok i → step s = exec i (setTurns s.port.turns.tail s)) ∧
    (s.pending = none → step s = .next (setTurns s.port.turns.tail s))

/-! ## The register window -/

/-- R107, R104, R102, with the map of 10_state.md R31 and the STATUS layout of R33, R40: a read answers the value of the
register at the offset, 0 for CMD and for a reserved offset; the read turn hands it to the host and changes no register,
BUSY or not. -/
def Obligations.ReadsReturnCurrentValuesAndChangeNothing : Prop :=
  ∀ s : State,
    (∀ (off : Offset) (rest : List Turn), off.toNat % 4 = 0 →
      step (setTurns (.read off 4 :: rest) s) =
        .next { s with port := { turns := rest, replies := busRead off s :: s.port.replies } }) ∧
    busRead 0x000 s = 0 ∧
    ((busRead 0x004 s).getLsbD 0 = s.status.busy ∧ (busRead 0x004 s).getLsbD 1 = s.status.kv ∧
      (busRead 0x004 s).getLsbD 2 = s.status.so ∧ (busRead 0x004 s).getLsbD 3 = s.status.wdrop ∧
      (busRead 0x004 s).extractLsb' 4 4 = s.status.err ∧ (busRead 0x004 s).extractLsb' 8 5 = s.status.esym ∧
      (busRead 0x004 s).extractLsb' 13 19 = 0) ∧
    busRead 0x008 s = s.failmask.setWidth 32 ∧ busRead 0x010 s = s.dinHi ∧ busRead 0x014 s = s.dinLo ∧
    busRead 0x018 s = s.doutHi ∧ busRead 0x01C s = s.doutLo ∧
    (∀ j (h : j < 8), busRead (BitVec.ofNat 12 (0x020 + 4 * j)) s = s.keyStg[j]) ∧
    busRead 0x040 s = s.keyWr.setWidth 32 ∧ busRead 0x044 s = s.schedWr ∧
    (∀ r (h : r < 32), busRead (BitVec.ofNat 12 (0x080 + 4 * r)) s = s.schedStg[r]) ∧
    (∀ r (h : r < 32), busRead (BitVec.ofNat 12 (0x100 + 4 * r)) s = s.rkey[r]) ∧
    (∀ k (h : k < 24), busRead (BitVec.ofNat 12 (0x180 + 4 * k)) s = s.pbuf[k].setWidth 32) ∧
    (∀ j (h : j < 8), busRead (BitVec.ofNat 12 (0x1E0 + 4 * j)) s = s.keyAct[j]) ∧
    (∀ e (h : e < 128), busRead (BitVec.ofNat 12 (0x200 + 4 * e)) s = s.sboxStg[e].setWidth 32) ∧
    (∀ e (h : e < 128), busRead (BitVec.ofNat 12 (0x400 + 4 * e)) s = s.sboxAct[e].setWidth 32) ∧
    (∀ off : Offset, off = 0x00C ∨ (0x048 ≤ off.toNat ∧ off.toNat ≤ 0x07C) ∨ 0x600 ≤ off.toNat → busRead off s = 0)

/-- R101: an access that is not an aligned 32-bit access is refused by name. -/
def Obligations.NonWordAccessIsRefusedByName : Prop :=
  ∀ (s : State) (rest : List Turn) (off : Offset) (width : Nat) (v : Word), width ≠ 4 ∨ off.toNat % 4 ≠ 0 →
    step (setTurns (.read off width :: rest) s) = .refused (.notAlignedWordAccess off width) ∧
    step (setTurns (.write off width v :: rest) s) = .refused (.notAlignedWordAccess off width)

/-- R105: a write while BUSY = 1, to any offset, CMD and STATUS among them, changes WDROP alone, to 1. -/
def Obligations.WriteWhileBusyIsDropped : Prop :=
  ∀ (s : State) (rest : List Turn) (off : Offset) (v : Word), s.status.busy = true → off.toNat % 4 = 0 →
    step (setTurns (.write off 4 v :: rest) s) =
      .next { setTurns rest s with status := { s.status with wdrop := true } }

/-- 10_state.md R32: a write to CMD while idle accepts the word, legal or not; while busy it is dropped; CMD reads 0. -/
def Obligations.WriteToCmdIsAcceptedWhenIdle : Prop :=
  ∀ (s : State) (rest : List Turn) (v : Word),
    (s.status.busy = false → step (setTurns (.write 0x000 4 v :: rest) s) =
      .next { setTurns rest s with pending := some v, status := { s.status with busy := true } }) ∧
    (s.status.busy = true → step (setTurns (.write 0x000 4 v :: rest) s) =
      .next { setTurns rest s with status := { s.status with wdrop := true } }) ∧
    busRead 0x000 s = 0

/-- R37: an idle write to STATUS clears WDROP exactly when bit 3 is 1 and touches nothing else; a write dropped at any offset
sets WDROP; no command changes it. -/
def Obligations.WdropIsSetByDropsAndClearedByWritingOne : Prop :=
  (∀ (s : State) (rest : List Turn) (v : Word), s.status.busy = false →
    step (setTurns (.write 0x004 4 v :: rest) s) =
      .next { setTurns rest s with
        status := { s.status with wdrop := if v.getLsbD 3 then false else s.status.wdrop } }) ∧
  (∀ (s : State) (off : Offset) (v : Word), s.status.busy = true → (busWrite off v s).status.wdrop = true) ∧
  ∀ (i : Instr) (s t : State), exec i s = .next t → t.status.wdrop = s.status.wdrop

/-- R44, R47: an idle write to a staged key or schedule word stores it and sets that word's written bit, and commands change
neither store. -/
def Obligations.StagedKeyAndScheduleWritesAreRecorded : Prop :=
  (∀ (s : State) (rest : List Turn) (v : Word) (j : Nat) (h : j < 8), s.status.busy = false →
    ∃ wr : BitVec 8, (∀ k < 8, wr.getLsbD k = (s.keyWr.getLsbD k || decide (k = j))) ∧
      step (setTurns (.write (BitVec.ofNat 12 (0x020 + 4 * j)) 4 v :: rest) s) =
        .next { setTurns rest s with keyStg := s.keyStg.set j v, keyWr := wr }) ∧
  (∀ (s : State) (rest : List Turn) (v : Word) (r : Nat) (h : r < 32), s.status.busy = false →
    ∃ wr : BitVec 32, (∀ k < 32, wr.getLsbD k = (s.schedWr.getLsbD k || decide (k = r))) ∧
      step (setTurns (.write (BitVec.ofNat 12 (0x080 + 4 * r)) 4 v :: rest) s) =
        .next { setTurns rest s with schedStg := s.schedStg.set r v, schedWr := wr }) ∧
  ∀ (i : Instr) (s t : State), exec i s = .next t → t.keyStg = s.keyStg ∧ t.schedStg = s.schedStg

/-- R42, R49, R51: idle writes to DIN, PBUF (bits 7:0) and SBOX_STG (bits 3:0) change that register alone. -/
def Obligations.DinPbufAndSboxWritesKeepTheLowBits : Prop :=
  ∀ (s : State) (rest : List Turn) (v : Word), s.status.busy = false →
    step (setTurns (.write 0x010 4 v :: rest) s) = .next { setTurns rest s with dinHi := v } ∧
    step (setTurns (.write 0x014 4 v :: rest) s) = .next { setTurns rest s with dinLo := v } ∧
    (∀ k (h : k < 24), step (setTurns (.write (BitVec.ofNat 12 (0x180 + 4 * k)) 4 v :: rest) s) =
      .next { setTurns rest s with pbuf := s.pbuf.set k (v.extractLsb' 0 8) }) ∧
    ∀ e (h : e < 128), step (setTurns (.write (BitVec.ofNat 12 (0x200 + 4 * e)) 4 v :: rest) s) =
      .next { setTurns rest s with sboxStg := s.sboxStg.set e (v.extractLsb' 0 4) }

/-- R103: an idle write to a read-only register or to a reserved offset has no effect, and WDROP is not set. -/
def Obligations.WriteToReadOnlyOrReservedIsIgnored : Prop :=
  ∀ (s : State) (rest : List Turn) (off : Offset) (v : Word), s.status.busy = false → off.toNat % 4 = 0 →
    (off ∈ ([0x008, 0x00C, 0x018, 0x01C, 0x040, 0x044] : List Offset) ∨ (0x048 ≤ off.toNat ∧ off.toNat ≤ 0x07C) ∨
      (0x100 ≤ off.toNat ∧ off.toNat ≤ 0x17C) ∨ (0x1E0 ≤ off.toNat ∧ off.toNat ≤ 0x1FC) ∨ 0x400 ≤ off.toNat) →
    step (setTurns (.write off 4 v :: rest) s) = .next (setTurns rest s)

/-- R359, R37: WDROP, once 1, stays 1 over a step unless the step is a reset or an idle write of 1 to bit 3 of STATUS: a host
that finds it 0 has lost no write since. -/
def Obligations.WdropIsLostOnlyByClearingOrReset : Prop :=
  ∀ s t : State, step s = .next t → s.status.wdrop = true → t.status.wdrop = false →
    (∃ rest, s.port.turns = .reset :: rest) ∨
    ∃ v rest, s.port.turns = .write 0x004 4 v :: rest ∧ v.getLsbD 3 = true ∧ s.status.busy = false

/-- R9, R30: the window stands at a 4 KiB boundary, a bus address in it selects its offset and one outside it none; LAT is at
least 1. -/
def Obligations.WindowStandsAtAnAlignedBase : Prop :=
  Config.cfeBase % 4096 = 0 ∧ (∀ off : Offset, windowOffset (busAddress off) = some off) ∧
  (∀ a, a < Config.cfeBase ∨ Config.cfeBase + 4096 ≤ a → windowOffset a = none) ∧ ∀ w, 1 ≤ Config.lat w

/-- R109, R112: big-endian packing of key bytes and block bytes: word j is `B[4j] ++ B[4j+1] ++ B[4j+2] ++ B[4j+3]`, read
here as bytes; a block's byte k is bits 63-8k : 56-8k. -/
def Obligations.BytesArePackedBigEndian : Prop :=
  (∀ (b : Vector Byte (4 * 8)) (j k : Nat) (_ : j < 8) (_ : k < 4),
    (wordsOfBytes b)[j].extractLsb' (24 - 8 * k) 8 = b[4 * j + k]) ∧
  ∀ (p : Vector Byte 8) (k : Nat) (_ : k < 8), (blockOfBytes p).extractLsb' (56 - 8 * k) 8 = p[k]

/-- 30_encoding.md R142, 20_memory.md R114: `EXEC <mnemonic>` from an idle state, whatever the number of polls: every poll
before the completion reads BUSY = 1, the last read BUSY = 0, and the registers are those of the command's completion. -/
def Obligations.ExecPollsUntilTheCommandCompletes : Prop :=
  ∀ (s : State) (i : Instr) (polls : Nat) (rest : List Turn), s.status.busy = false →
    ∃ t busyReads last,
      exec i { s with port := { turns := rest, replies := s.port.replies } } = .next t ∧
      busyReads.length = polls ∧ (∀ v ∈ busyReads, v.getLsbD 0 = true) ∧ last = t.status.word ∧
      last.getLsbD 0 = false ∧
      core.run (polls + 3) (withProgram (execCmd i polls ++ rest) s) =
        .next { t with port := { turns := rest, replies := last :: (busyReads ++ s.port.replies) } }

/-! ## The block cipher

From here on, the statement of a command begins with its word ("Encoding" in its rule). -/

/-- 40_cipher.md R164 with R163: lane i of the result is row i's entry for lane i of the operand, and reads no other row or
lane. -/
def Obligations.TsubSubstitutesLaneByLane : Prop :=
  ∀ (sbox : Vector Nibble 128) (a : Word) (i : Nat) (h : i < 8),
    ∃ e : Fin 128, e.val = 16 * i + (a.extractLsb' (4 * i) 4).toNat ∧
      (tsub sbox a).extractLsb' (4 * i) 4 = sbox[e.val]

/-- R175, R168: ENC runs the rounds r = 0..31 in ascending order from the halves of DIN and leaves the final low half in
DOUT_HI and the final high half in DOUT_LO; before any commit it raises CONSTRUCTION. The sequence `hl` of round halves is
the rule's, not the model's fold. -/
def Obligations.EncRunsTheRoundsAscending : Prop :=
  decode 0x00000001 = .ok .enc ∧
  ∀ (s : State) (hl : Nat → Word × Word), hl 0 = (s.dinHi, s.dinLo) →
    (∀ r (h : r < 32), hl (r + 1) =
      ((hl r).2, rotl32 (tsub s.sboxAct (s.rkey[r] + (hl r).2)) 11 ^^^ (hl r).1)) →
    (s.status.kv = true →
      exec .enc s = .next { completedOk s with doutHi := (hl 32).2, doutLo := (hl 32).1 }) ∧
    (s.status.kv = false → exec .enc s = .next (completedErr 2 0 0 s))

/-- R176, R169: DEC runs the same rounds with the round keys descending, r = 31 down to 0. -/
def Obligations.DecRunsTheRoundsDescending : Prop :=
  decode 0x00000002 = .ok .dec ∧
  ∀ (s : State) (hl : Nat → Word × Word), hl 0 = (s.dinHi, s.dinLo) →
    (∀ r (h : r < 32), hl (r + 1) =
      ((hl r).2, rotl32 (tsub s.sboxAct (s.rkey[31 - r] + (hl r).2)) 11 ^^^ (hl r).1)) →
    (s.status.kv = true →
      exec .dec s = .next { completedOk s with doutHi := (hl 32).2, doutLo := (hl 32).1 }) ∧
    (s.status.kv = false → exec .dec s = .next (completedErr 2 0 0 s))

/-- The §8.2 known answer (95_test_vectors.md L1-8.2, R168, R169): under the §8.2 key's schedule and the default S-box. -/
def Obligations.KnownAnswerUnderTheSourceKey : Prop :=
  ∀ s : State, s.status.kv = true → s.sboxAct = defaultSbox →
    s.rkey = sched #v[0xffeeddcc, 0xbbaa9988, 0x77665544, 0x33221100, 0xf0f1f2f3, 0xf4f5f6f7, 0xf8f9fafb, 0xfcfdfeff] →
    exec .enc { s with dinHi := 0xfedcba98, dinLo := 0x76543210 } =
      .next { completedOk s with
        dinHi := 0xfedcba98, dinLo := 0x76543210, doutHi := 0x4ee901e5, doutLo := 0xc2d8ca3d } ∧
    exec .dec { s with dinHi := 0x4ee901e5, dinLo := 0xc2d8ca3d } =
      .next { completedOk s with
        dinHi := 0x4ee901e5, dinLo := 0xc2d8ca3d, doutHi := 0xfedcba98, doutLo := 0x76543210 }

/-- R170, R171: Decrypt and Encrypt are inverse to each other for every 32 round keys, every S-box content, permutation
rows or not, and every block. -/
def Obligations.DecryptAndEncryptAreInverse : Prop :=
  ∀ (sbox : Vector Nibble 128) (rk : Vector Word 32) (x : Block),
    decrypt sbox rk (encrypt sbox rk x) = x ∧ encrypt sbox rk (decrypt sbox rk x) = x

/-- R176 (corner cases): on the machine, DEC of an ENC result under the same active schedule and S-box returns the original
block, whatever else the host has written in between. -/
def Obligations.DecOfAnEncResultReturnsTheBlock : Prop :=
  ∀ s : State, s.status.kv = true → ∃ t, exec .enc s = .next t ∧
    ∀ u : State, u.status.kv = true → u.rkey = t.rkey → u.sboxAct = t.sboxAct →
      u.dinHi = t.doutHi → u.dinLo = t.doutLo →
      exec .dec u = .next { completedOk u with doutHi := s.dinHi, doutLo := s.dinLo }

/-! ## Construction and re-key -/

/-- 41_configuration.md R201 with 40_cipher.md R167: REKEY with all eight key words written commits key, schedule and S-box
together and clears KEY_WR; otherwise it raises CONSTRUCTION and changes nothing else. -/
def Obligations.RekeyCommitsKeyScheduleAndSbox : Prop :=
  decode 0x00000003 = .ok .rekey ∧
  ∀ s : State,
    (s.keyWr = 0xFF → ∃ rk : Vector Word 32,
      (∀ r (h : r < 24), rk[r] = s.keyStg[r % 8]) ∧
      (∀ r (h : 24 ≤ r) (h' : r < 32), rk[r] = s.keyStg[31 - r]) ∧
      exec .rekey s = .next { completedOk s with
        keyAct := s.keyStg, rkey := rk, sboxAct := s.sboxStg, keyWr := 0,
        status := { (completedOk s).status with kv := true, so := false } }) ∧
    (s.keyWr ≠ 0xFF → exec .rekey s = .next (completedErr 2 0 0 s))

/-- R205: REKEY.Z commits the all-zero key, the all-zero schedule (which is its schedule) and the staged S-box, in every
state, and leaves KEY_STG and KEY_WR. -/
def Obligations.RekeyZCommitsTheZeroKey : Prop :=
  decode 0x00000403 = .ok .rekeyZ ∧
  (∀ s : State, exec .rekeyZ s = .next { completedOk s with
    keyAct := Vector.replicate 8 0, rkey := Vector.replicate 32 0, sboxAct := s.sboxStg,
    status := { (completedOk s).status with kv := true, so := false } }) ∧
  sched (Vector.replicate 8 0) = Vector.replicate 32 0

/-- R208: LOADSCHED with all 32 schedule words written commits the override as given, zeroes the active key, sets SO and
clears SCHED_WR; otherwise CONSTRUCTION. -/
def Obligations.LoadschedCommitsTheOverride : Prop :=
  decode 0x00000004 = .ok .loadsched ∧
  ∀ s : State,
    (s.schedWr = 0xFFFFFFFF → exec .loadsched s = .next { completedOk s with
      keyAct := Vector.replicate 8 0, rkey := s.schedStg, sboxAct := s.sboxStg, schedWr := 0,
      status := { (completedOk s).status with kv := true, so := true } }) ∧
    (s.schedWr ≠ 0xFFFFFFFF → exec .loadsched s = .next (completedErr 2 0 0 s))

/-- R209: two CFEs that commit the same staged key and S-box with REKEY have equal schedules and S-boxes, and give equal ENC
results for every block, whatever else differs between them. -/
def Obligations.RekeyIsDeterminedByKeyAndSbox : Prop :=
  ∀ s s' : State, s.keyWr = 0xFF → s'.keyWr = 0xFF → s.keyStg = s'.keyStg → s.sboxStg = s'.sboxStg →
    ∃ t t', exec .rekey s = .next t ∧ exec .rekey s' = .next t' ∧ t.rkey = t'.rkey ∧ t.sboxAct = t'.sboxAct ∧
      ∀ hi lo : Word, ∃ u u', exec .enc { t with dinHi := hi, dinLo := lo } = .next u ∧
        exec .enc { t' with dinHi := hi, dinLo := lo } = .next u' ∧ u.status.err = 0 ∧
        u.doutHi = u'.doutHi ∧ u.doutLo = u'.doutLo

/-- R323: when CONSTRUCTION is raised, and by which commands it never is. A composed decode of a failing buffer before any
commit reports CONSTRUCTION with FAILMASK 0 (R327). -/
def Obligations.ConstructionIsRaisedInThreeCases : Prop :=
  ∀ s : State,
    (s.status.kv = false →
      ∀ i ∈ ([.enc, .dec, .gencH, .gencR, .gencP, .gdecH, .gdecR, .gdecP] : List Instr),
        exec i s = .next (completedErr 2 0 0 s)) ∧
    (s.keyWr ≠ 0xFF → exec .rekey s = .next (completedErr 2 0 0 s)) ∧
    (s.schedWr ≠ 0xFFFFFFFF → exec .loadsched s = .next (completedErr 2 0 0 s)) ∧
    (∀ i t, exec i s = .next t → t.status.err = 2 →
      (s.status.kv = false ∧ i ∈ ([.enc, .dec, .gencH, .gencR, .gencP, .gdecH, .gdecR, .gdecP] : List Instr)) ∨
      (s.keyWr ≠ 0xFF ∧ i = .rekey) ∨ (s.schedWr ≠ 0xFFFFFFFF ∧ i = .loadsched))

/-! ## The error-correcting codes -/

/-- 42_ecc.md R236 with the codeword table of R232: HENC of DIN_LO[3:0], in every state. -/
def Obligations.HencGivesTheCodewordOfTheTable : Prop :=
  decode 0x00000010 = .ok .henc ∧
  ∀ s : State, ∀ n, n = s.dinLo.toNat % 16 →
    ∃ c, ([0x00, 0x69, 0x2A, 0x43, 0x4C, 0x25, 0x66, 0x0F, 0x70, 0x19, 0x5A, 0x33, 0x3C, 0x55, 0x16, 0x7F] : List Word)[n]?
        = some c ∧
      exec .henc s = .next { completedOk s with doutHi := 0, doutLo := c }

/-- R237, R234, R235(3): HDEC always succeeds, with the one symbol whose codeword is within distance 1 of DIN_LO[6:0]. -/
def Obligations.HdecGivesTheOnlySymbolWithinDistanceOne : Prop :=
  decode 0x00000011 = .ok .hdec ∧
  ∀ s : State, ∃ n : Nibble, popcount (hEnc n ^^^ s.dinLo.extractLsb' 0 7) ≤ 1 ∧
    (∀ m : Nibble, popcount (hEnc m ^^^ s.dinLo.extractLsb' 0 7) ≤ 1 → m = n) ∧
    exec .hdec s = .next { completedOk s with doutHi := 0, doutLo := n.setWidth 32 }

/-- R235: the four Hamming properties: round trip, every single error corrected, the perfect code, every double error
silently miscorrected. -/
def Obligations.HammingCorrectsOneErrorAndMiscorrectsTwo : Prop :=
  (∀ n : Nibble, hDec (hEnc n) = n) ∧
  (∀ (n : Nibble) (b : Fin 7), hDec (hEnc n ^^^ (1#7 <<< b.val)) = n) ∧
  (∀ c : HWord, ∃ n : Nibble, popcount (hEnc n ^^^ c) ≤ 1 ∧ ∀ m : Nibble, popcount (hEnc m ^^^ c) ≤ 1 → m = n) ∧
  ∀ (n : Nibble) (a b : Fin 7), a ≠ b → hDec (hEnc n ^^^ (1#7 <<< a.val) ^^^ (1#7 <<< b.val)) ≠ n

/-- R243: RENC repeats DIN_LO[7:0] three times. -/
def Obligations.RencRepeatsTheByte : Prop :=
  decode 0x00000012 = .ok .renc ∧
  ∀ s : State, ∃ c : Word, c.extractLsb' 0 8 = s.dinLo.extractLsb' 0 8 ∧ c.extractLsb' 8 8 = s.dinLo.extractLsb' 0 8 ∧
    c.extractLsb' 16 8 = s.dinLo.extractLsb' 0 8 ∧ c.extractLsb' 24 8 = 0 ∧
    exec .renc s = .next { completedOk s with doutHi := 0, doutLo := c }

/-- R244, R241: RDEC returns the value of any two equal bytes of DIN_LO[23:0], and raises UNCORRECTABLE when the three differ
pairwise. -/
def Obligations.RdecTakesTheMajorityByte : Prop :=
  decode 0x00000013 = .ok .rdec ∧
  ∀ (s : State) (b0 b1 b2 : Byte), b0 = s.dinLo.extractLsb' 16 8 → b1 = s.dinLo.extractLsb' 8 8 →
    b2 = s.dinLo.extractLsb' 0 8 →
    (b0 = b1 ∨ b0 = b2 → exec .rdec s = .next { completedOk s with doutHi := 0, doutLo := b0.setWidth 32 }) ∧
    (b1 = b2 → exec .rdec s = .next { completedOk s with doutHi := 0, doutLo := b1.setWidth 32 }) ∧
    (b0 ≠ b1 → b0 ≠ b2 → b1 ≠ b2 → exec .rdec s = .next (completedErr 3 0 0 s))

/-- R242: the five Repetition properties. -/
def Obligations.RepetitionVoteProperties : Prop :=
  (∀ a b c : Byte, rDec a b c = rDec b a c ∧ rDec a b c = rDec a c b) ∧
  (∀ b : Byte, rDec ((rEnc b).extractLsb' 16 8) ((rEnc b).extractLsb' 8 8) ((rEnc b).extractLsb' 0 8) = some b) ∧
  (∀ b x : Byte, rDec x b b = some b ∧ rDec b x b = some b ∧ rDec b b x = some b) ∧
  (∀ b x y : Byte, x ≠ y → x ≠ b → y ≠ b → rDec b x y = none ∧ rDec x b y = none ∧ rDec x y b = none) ∧
  ∀ b v : Byte, v ≠ b → rDec b v v = some v ∧ rDec v b v = some v ∧ rDec v v b = some v

/-- R255, R251, R250: PENC places data bit j at DPOS[j], parity bit i at position 2^i as the parity of the positions below
it, and 0 in bits 31:21. The three clauses determine the codeword. -/
def Obligations.PencPlacesDataAndPrefixParities : Prop :=
  decode 0x00000014 = .ok .penc ∧
  ∀ s : State, ∃ c : Word,
    (∀ j (h : j < 16), c.getLsbD ([0, 3, 5, 6, 7, 9, 10, 11, 12, 13, 14, 15, 17, 18, 19, 20][j]) = s.dinLo.getLsbD j) ∧
    (∀ i < 5, c.getLsbD (2 ^ i) = parity (c.extractLsb' 0 (2 ^ i))) ∧ c.extractLsb' 21 11 = 0 ∧
    exec .penc s = .next { completedOk s with doutHi := 0, doutLo := c }

/-- R256, R252, R253: PDEC fails with UNCORRECTABLE when one of the five prefix parities of DIN_LO is 1, and otherwise gives
the data bits; bits 31:21 are not read. -/
def Obligations.PdecChecksTheFivePrefixParities : Prop :=
  decode 0x00000015 = .ok .pdec ∧
  ∀ s : State,
    ((∃ i < 5, parity (s.dinLo.extractLsb' 0 (2 ^ i + 1)) = true) → exec .pdec s = .next (completedErr 3 0 0 s)) ∧
    ((∀ i < 5, parity (s.dinLo.extractLsb' 0 (2 ^ i + 1)) = false) → ∃ d : Half,
      (∀ j (h : j < 16), d.getLsbD j = s.dinLo.getLsbD ([0, 3, 5, 6, 7, 9, 10, 11, 12, 13, 14, 15, 17, 18, 19, 20][j])) ∧
      exec .pdec s = .next { completedOk s with doutHi := 0, doutLo := d.setWidth 32 })

/-- R254(1), R252: PDec undoes PEnc, and the syndrome of a codeword is 0, for all 65536 symbols. -/
def Obligations.ParityDecodeUndoesEncode : Prop :=
  ∀ d : Half, pDec (pEnc d) = some d ∧ pSyndrome (pEnc d) = 0

/-- R254(2) to (5): the syndrome of every single flip, which flips are detected, and those that are not. -/
def Obligations.ParityDetectsFlipsUpToPositionSixteen : Prop :=
  ∀ d : Half,
    (∀ p ≤ 16, pDec (pEnc d ^^^ (1#32 <<< p)) = none ∧
      pSyndrome (pEnc d ^^^ (1#32 <<< p)) =
        if p ≤ 1 then 0x1F else if p ≤ 2 then 0x1E else if p ≤ 4 then 0x1C else if p ≤ 8 then 0x18 else 0x10) ∧
    (∀ p, 17 ≤ p → p ≤ 20 → pDec (pEnc d ^^^ (1#32 <<< p)) = some (d ^^^ (1#16 <<< (p - 5)))) ∧
    pDec (pEnc d ^^^ 3#32) = some (d ^^^ 1#16) ∧
    ∀ x : Word, x.extractLsb' 0 21 = 0 → pDec (pEnc d ^^^ x) = some d

/-! ## Composition -/

/-- 43_composition.md R283, R281: GENC.H writes the Hamming codeword of nibble j of the ciphertext, most significant first,
to byte j, and nothing else of PBUF. -/
def Obligations.GencHFramesSixteenNibbles : Prop :=
  decode 0x00000020 = .ok .gencH ∧
  ∀ (s : State) (ct : Block), ct = encrypt s.sboxAct s.rkey (s.dinHi ++ s.dinLo) →
    (s.status.kv = true → ∃ pb : Vector Byte 24,
      (∀ j (h : j < 16), pb[j] = (hEnc (ct.extractLsb' (60 - 4 * j) 4)).setWidth 8) ∧
      (∀ k (h : 16 ≤ k) (h' : k < 24), pb[k] = s.pbuf[k]) ∧
      exec .gencH s = .next { completedOk s with pbuf := pb }) ∧
    (s.status.kv = false → exec .gencH s = .next (completedErr 2 0 0 s))

/-- R284, R281: GENC.R writes byte j of the ciphertext, most significant first, three times. -/
def Obligations.GencRFramesEightBytesThrice : Prop :=
  decode 0x00000120 = .ok .gencR ∧
  ∀ (s : State) (ct : Block), ct = encrypt s.sboxAct s.rkey (s.dinHi ++ s.dinLo) →
    (s.status.kv = true → ∃ pb : Vector Byte 24,
      (∀ j (h : j < 8), pb[3 * j] = ct.extractLsb' (56 - 8 * j) 8 ∧ pb[3 * j + 1] = ct.extractLsb' (56 - 8 * j) 8 ∧
        pb[3 * j + 2] = ct.extractLsb' (56 - 8 * j) 8) ∧
      exec .gencR s = .next { completedOk s with pbuf := pb }) ∧
    (s.status.kv = false → exec .gencR s = .next (completedErr 2 0 0 s))

/-- R285, R281: GENC.P writes the Parity16 codeword of quarter j of the ciphertext, big-endian in bytes 4j to 4j+3. -/
def Obligations.GencPFramesFourWordsBigEndian : Prop :=
  decode 0x00000220 = .ok .gencP ∧
  ∀ (s : State) (ct : Block), ct = encrypt s.sboxAct s.rkey (s.dinHi ++ s.dinLo) →
    (s.status.kv = true → ∃ pb : Vector Byte 24,
      (∀ j (h : j < 4), pb[4 * j] ++ pb[4 * j + 1] ++ pb[4 * j + 2] ++ pb[4 * j + 3]
        = pEnc (ct.extractLsb' (48 - 16 * j) 16)) ∧
      (∀ k (h : 16 ≤ k) (h' : k < 24), pb[k] = s.pbuf[k]) ∧
      exec .gencP s = .next { completedOk s with pbuf := pb }) ∧
    (s.status.kv = false → exec .gencP s = .next (completedErr 2 0 0 s))

/-- R291, R290, R287: GDEC.H decodes the 16 bytes to the 16 nibbles of the ciphertext and decrypts it; it never raises
COMPOSITION. -/
def Obligations.GdecHDecodesAndDecrypts : Prop :=
  decode 0x00000021 = .ok .gdecH ∧
  ∀ s : State,
    (s.status.kv = true → ∃ ct pt : Block,
      (∀ j (h : j < 16), ct.extractLsb' (60 - 4 * j) 4 = hDec (s.pbuf[j].extractLsb' 0 7)) ∧
      pt = decrypt s.sboxAct s.rkey ct ∧
      exec .gdecH s = .next { completedOk s with doutHi := pt.extractLsb' 32 32, doutLo := pt.extractLsb' 0 32 }) ∧
    (s.status.kv = false → exec .gdecH s = .next (completedErr 2 0 0 s))

/-- R292, R290, R289: GDEC.R decrypts when all eight groups decode; otherwise COMPOSITION, with ESYM the lowest failing group
and FAILMASK every failing group, and DOUT unchanged. -/
def Obligations.GdecRDecodesOrReportsEveryFailingGroup : Prop :=
  decode 0x00000121 = .ok .gdecR ∧
  ∀ s : State,
    (s.status.kv = true →
      (∀ v : Vector Byte 8,
        (∀ j (h : j < 8), rDec s.pbuf[3 * j] s.pbuf[3 * j + 1] s.pbuf[3 * j + 2] = some v[j]) →
        ∃ ct pt : Block, (∀ j (h : j < 8), ct.extractLsb' (56 - 8 * j) 8 = v[j]) ∧
          pt = decrypt s.sboxAct s.rkey ct ∧
          exec .gdecR s =
            .next { completedOk s with doutHi := pt.extractLsb' 32 32, doutLo := pt.extractLsb' 0 32 }) ∧
      (∀ k (hk : k < 8), rDec s.pbuf[3 * k] s.pbuf[3 * k + 1] s.pbuf[3 * k + 2] = none →
        (∀ j (h : j < k), rDec s.pbuf[3 * j] s.pbuf[3 * j + 1] s.pbuf[3 * j + 2] ≠ none) →
        ∃ fm : BitVec 16,
          (∀ j (h : j < 8), fm.getLsbD j = (rDec s.pbuf[3 * j] s.pbuf[3 * j + 1] s.pbuf[3 * j + 2]).isNone) ∧
          (∀ j, 8 ≤ j → fm.getLsbD j = false) ∧
          exec .gdecR s = .next (completedErr 4 (BitVec.ofNat 5 k) fm s))) ∧
    (s.status.kv = false → exec .gdecR s = .next (completedErr 2 0 0 s))

/-- R293, R290, R289: GDEC.P, the same for the four codewords. -/
def Obligations.GdecPDecodesOrReportsEveryFailingWord : Prop :=
  decode 0x00000221 = .ok .gdecP ∧
  ∀ (s : State) (cw : Vector Word 4),
    (∀ j (h : j < 4), cw[j] = s.pbuf[4 * j] ++ s.pbuf[4 * j + 1] ++ s.pbuf[4 * j + 2] ++ s.pbuf[4 * j + 3]) →
    (s.status.kv = true →
      (∀ v : Vector Half 4, (∀ j (h : j < 4), pDec cw[j] = some v[j]) →
        ∃ ct pt : Block, (∀ j (h : j < 4), ct.extractLsb' (48 - 16 * j) 16 = v[j]) ∧
          pt = decrypt s.sboxAct s.rkey ct ∧
          exec .gdecP s =
            .next { completedOk s with doutHi := pt.extractLsb' 32 32, doutLo := pt.extractLsb' 0 32 }) ∧
      (∀ k (hk : k < 4), pDec cw[k] = none → (∀ j (h : j < k), pDec cw[j] ≠ none) →
        ∃ fm : BitVec 16, (∀ j (h : j < 4), fm.getLsbD j = (pDec cw[j]).isNone) ∧
          (∀ j, 4 ≤ j → fm.getLsbD j = false) ∧
          exec .gdecP s = .next (completedErr 4 (BitVec.ofNat 5 k) fm s))) ∧
    (s.status.kv = false → exec .gdecP s = .next (completedErr 2 0 0 s))

/-- R294: after GENC.c, in every state with the same first L bytes of PBUF and the same active schedule and S-box (nothing
else need be the same), GDEC.c succeeds and DOUT is the DIN of the GENC.c. -/
def Obligations.ComposedRoundTripRecoversTheBlock : Prop :=
  ∀ p ∈ ([(.gencH, .gdecH, 16), (.gencR, .gdecR, 24), (.gencP, .gdecP, 16)] : List (Instr × Instr × Nat)),
    ∀ s : State, s.status.kv = true → ∃ t, exec p.1 s = .next t ∧
      ∀ u : State, u.status.kv = true → u.rkey = t.rkey → u.sboxAct = t.sboxAct →
        (∀ k (h : k < 24), k < p.2.2 → u.pbuf[k] = t.pbuf[k]) →
        exec p.2.1 u = .next { completedOk u with doutHi := s.dinHi, doutLo := s.dinLo }

/-- R295: after GENC.R, any corruption of at most one byte in each group of three still gives the block back; the same flip
`x` of all three bytes of group k decodes without error to the ciphertext with byte k flipped by `x`. -/
def Obligations.RepetitionRecoversOneByteInEveryGroup : Prop :=
  ∀ s : State, s.status.kv = true → ∃ t, exec .gencR s = .next t ∧
    (∀ u : State, u.status.kv = true → u.rkey = t.rkey → u.sboxAct = t.sboxAct →
      (∀ j (h : j < 8),
        (u.pbuf[3 * j + 1] = t.pbuf[3 * j + 1] ∧ u.pbuf[3 * j + 2] = t.pbuf[3 * j + 2]) ∨
        (u.pbuf[3 * j] = t.pbuf[3 * j] ∧ u.pbuf[3 * j + 2] = t.pbuf[3 * j + 2]) ∨
        (u.pbuf[3 * j] = t.pbuf[3 * j] ∧ u.pbuf[3 * j + 1] = t.pbuf[3 * j + 1])) →
      exec .gdecR u = .next { completedOk u with doutHi := s.dinHi, doutLo := s.dinLo }) ∧
    (∀ (u : State) (k : Nat) (x : Byte), k < 8 → u.status.kv = true → u.rkey = t.rkey → u.sboxAct = t.sboxAct →
      (∀ j (h : j < 24), u.pbuf[j] = if j / 3 = k then t.pbuf[j] ^^^ x else t.pbuf[j]) →
      ∃ ct pt : Block,
        (∀ j < 8, ct.extractLsb' (56 - 8 * j) 8 =
          if j = k then (encrypt s.sboxAct s.rkey (s.dinHi ++ s.dinLo)).extractLsb' (56 - 8 * j) 8 ^^^ x
          else (encrypt s.sboxAct s.rkey (s.dinHi ++ s.dinLo)).extractLsb' (56 - 8 * j) 8) ∧
        pt = decrypt u.sboxAct u.rkey ct ∧
        exec .gdecR u = .next { completedOk u with doutHi := pt.extractLsb' 32 32, doutLo := pt.extractLsb' 0 32 })

/-- R288: whether slot j of a composed decode fails depends on the bytes of slot j alone: two buffers that agree there give
the same bit j of FAILMASK, whatever the other slots hold. -/
def Obligations.SlotFailureDependsOnItsOwnBytes : Prop :=
  ∀ s u s' u' : State, s.status.kv = true → u.status.kv = true →
    (∀ j, j < 8 → (∀ k (h : k < 24), k / 3 = j → s.pbuf[k] = u.pbuf[k]) →
      exec .gdecR s = .next s' → exec .gdecR u = .next u' → s'.failmask.getLsbD j = u'.failmask.getLsbD j) ∧
    (∀ j, j < 4 → (∀ k (h : k < 24), k / 4 = j → s.pbuf[k] = u.pbuf[k]) →
      exec .gdecP s = .next s' → exec .gdecP u = .next u' → s'.failmask.getLsbD j = u'.failmask.getLsbD j)

/-! ## Every command -/

/-- R320, R15: every command completes, in every state: `exec` answers a next state with nothing pending, BUSY = 0 and a code
of R321, and no command faults or is refused. -/
def Obligations.EveryCommandCompletes : Prop :=
  ∀ (i : Instr) (s : State), ∃ t, exec i s = .next t ∧ t.pending = none ∧ t.status.busy = false ∧
    t.status.err.toNat ≤ 4

/-- R328, R321: errors are precise: after a failing command the state is the state before it but for ERR, ESYM, FAILMASK,
BUSY and `pending`. -/
def Obligations.FailingCommandChangesOnlyItsReport : Prop :=
  ∀ (i : Instr) (s t : State), exec i s = .next t → t.status.err ≠ 0 →
    t = completedErr t.status.err t.status.esym t.failmask s

/-- R321: which commands raise which code, and the info each records. -/
def Obligations.EachErrorCodeHasItsRaisersAndInfo : Prop :=
  ∀ (i : Instr) (s t : State), exec i s = .next t →
    (t.status.err = 0 ∧ t.status.esym = 0 ∧ t.failmask = 0) ∨
    (t.status.err = 2 ∧ t.status.esym = 0 ∧ t.failmask = 0 ∧
      i ∈ ([.rekey, .loadsched, .enc, .dec, .gencH, .gencR, .gencP, .gdecH, .gdecR, .gdecP] : List Instr)) ∨
    (t.status.err = 3 ∧ t.status.esym = 0 ∧ t.failmask = 0 ∧ i ∈ ([.rdec, .pdec] : List Instr)) ∨
    (t.status.err = 4 ∧ i ∈ ([.gdecR, .gdecP] : List Instr) ∧ t.status.esym.toNat < 16 ∧
      t.failmask.getLsbD t.status.esym.toNat = true ∧ ∀ j < t.status.esym.toNat, t.failmask.getLsbD j = false)

/-- The "writes" column of R136, R42, R43: the frame of every command, successful or failing: what each leaves unchanged. -/
def Obligations.CommandsWriteOnlyTheirRegisters : Prop :=
  ∀ (i : Instr) (s t : State), exec i s = .next t →
    t.dinHi = s.dinHi ∧ t.dinLo = s.dinLo ∧ t.keyStg = s.keyStg ∧ t.schedStg = s.schedStg ∧ t.sboxStg = s.sboxStg ∧
    t.status.wdrop = s.status.wdrop ∧ t.port = s.port ∧
    (i ≠ .rekey → t.keyWr = s.keyWr) ∧ (i ≠ .loadsched → t.schedWr = s.schedWr) ∧
    (i ∉ ([.rekey, .rekeyZ, .loadsched] : List Instr) → t.keyAct = s.keyAct ∧ t.rkey = s.rkey ∧ t.sboxAct = s.sboxAct ∧
      t.status.kv = s.status.kv ∧ t.status.so = s.status.so) ∧
    (i ∉ ([.gencH, .gencR, .gencP] : List Instr) → t.pbuf = s.pbuf) ∧
    (i ≠ .gencR → ∀ k (h : k < 24), 16 ≤ k → t.pbuf[k] = s.pbuf[k]) ∧
    (i ∈ ([.rekey, .rekeyZ, .loadsched, .gencH, .gencR, .gencP] : List Instr) →
      t.doutHi = s.doutHi ∧ t.doutLo = s.doutLo)

/-- 42_ecc.md R230: the direct ECC commands read no cipher state: two states with the same DIN_LO and DOUT give the same DOUT
and the same result code, whatever KV, the keys, the schedules and the S-boxes are. -/
def Obligations.DirectEccReadsNoCipherState : Prop :=
  ∀ i ∈ ([.henc, .hdec, .renc, .rdec, .penc, .pdec] : List Instr), ∀ s u : State,
    s.dinLo = u.dinLo → s.doutHi = u.doutHi → s.doutLo = u.doutLo →
    ∃ s' u', exec i s = .next s' ∧ exec i u = .next u' ∧ s'.doutHi = u'.doutHi ∧ s'.doutLo = u'.doutLo ∧
      s'.status.err = u'.status.err

/-- 20_memory.md R116: staged values are invisible to the datapath: states that differ only in the staged stores and their
written masks give the same results of ENC, DEC, GENC.c and GDEC.c. -/
def Obligations.StagedStoresDoNotReachTheDatapath : Prop :=
  ∀ i ∈ ([.enc, .dec, .gencH, .gencR, .gencP, .gdecH, .gdecR, .gdecP] : List Instr),
    ∀ (s : State) (k : Vector Word 8) (kw : BitVec 8) (r : Vector Word 32) (rw : BitVec 32) (b : Vector Nibble 128),
      ∃ t, exec i s = .next t ∧
        exec i { s with keyStg := k, keyWr := kw, schedStg := r, schedWr := rw, sboxStg := b } =
          .next { t with keyStg := k, keyWr := kw, schedStg := r, schedWr := rw, sboxStg := b }

/-! ## Every step -/

/-- 41_configuration.md R202, R210: over any step the active stores, KV and SO all stay, or the step is a reset, or it is
the engine's completion of a commit command, which gives them all the values of that commit (R201, R205, R208). -/
def Obligations.ActiveStoresChangeTogetherAtACommit : Prop :=
  ∀ s t : State, step s = .next t →
    (t.keyAct = s.keyAct ∧ t.rkey = s.rkey ∧ t.sboxAct = s.sboxAct ∧ t.status.kv = s.status.kv ∧
      t.status.so = s.status.so) ∨
    (∃ rest, s.port.turns = .reset :: rest) ∨
    (EngineMoves s ∧ t.status.kv = true ∧ t.sboxAct = s.sboxStg ∧
      ((s.pending = some 0x00000003 ∧ t.status.so = false ∧ t.keyAct = s.keyStg ∧ t.rkey = sched s.keyStg) ∨
        (s.pending = some 0x00000403 ∧ t.status.so = false ∧ t.keyAct = Vector.replicate 8 0 ∧
          t.rkey = Vector.replicate 32 0) ∨
        (s.pending = some 0x00000004 ∧ t.status.so = true ∧ t.keyAct = Vector.replicate 8 0 ∧ t.rkey = s.schedStg)))

/-- The invariant (R53, R54, R55, R38, R39, R41; Safety.lean) holds after reset. -/
def Obligations.ResetStateMeetsTheInvariant : Prop := StateInv State.reset

/-- Every step keeps the invariant, from every state that has it, reachable or not. -/
def Obligations.EveryStepKeepsTheInvariant : Prop :=
  ∀ s t : State, StateInv s → step s = .next t → StateInv t

/-- 10_state.md R53 and R54: in every state reachable from reset, whatever the outside world does, SO = 0 implies that the
active schedule is that of the active key, and KV = 0 that the active stores are as after reset. -/
def Obligations.ReachableScheduleIsNeverStale : Prop :=
  ∀ s : State, Reachable s →
    (s.status.so = false → ∀ r (h : r < 32), s.rkey[r] = (sched s.keyAct)[r]) ∧
    (s.status.kv = false →
      s.keyAct = Vector.replicate 8 0 ∧ s.rkey = Vector.replicate 32 0 ∧ s.sboxAct = defaultSbox)

/-- 20_memory.md R111, R105: the operands of a pending command are frozen: whatever host accesses come before its completion,
the registers after it are those of an immediate completion, but for WDROP, which records whether a write was dropped. -/
def Obligations.PendingCommandIsUnaffectedByHostAccesses : Prop :=
  ∀ (s : State) (w : Word) (accesses rest : List Turn), s.pending = some w → s.status.busy = true →
    (∀ a ∈ accesses, a.isAccess = true ∧ a.inContract = true) →
    ∃ t u, core.run 1 (withProgram (.engine :: rest) s) = .next t ∧
      core.run (accesses.length + 1) (withProgram (accesses ++ .engine :: rest) s) = .next u ∧
      u = { t with
        status := { t.status with wdrop := t.status.wdrop || accesses.any Turn.isWrite }
        port := u.port } ∧ u.port.turns = rest

/-- 70_reset_and_hazards.md R365, R367, R320: progress: for every program of contract accesses, resets and engine turns in
any order, the run ends without a fault or a refusal, with every turn taken and nothing pending. That the engine moves when no
turn is left is how the model takes the fairness of R365: the model's choice (log entry 5). -/
def Obligations.EveryContractRunEndsWithNothingPending : Prop :=
  ∀ s : State, s.status.busy = s.pending.isSome → InContract s →
    ∃ t, core.run (s.port.turns.length + 1) s = .next t ∧ t.port.turns = [] ∧ t.pending = none ∧
      t.status.busy = false
end

