-- ==== Sys2Proof/Laws/State.lean ====
section
/-! SUPPORT. Laws/State.lean: one lemma per field per update of State, true by rfl (for `writePbuf` by unfolding it once), so that no later proof unfolds a record
update. Where an update changes STATUS, one lemma per field of STATUS. -/

namespace Sys2Proof.Machine

variable (s : State)


/-! ### complete -/

@[simp] theorem complete_pending (e : ErrCode) (m : BitVec 5) (f : BitVec 16) : (complete e m f s).pending = none := rfl
@[simp] theorem complete_busy (e : ErrCode) (m : BitVec 5) (f : BitVec 16) : (complete e m f s).status.busy = false := rfl
@[simp] theorem complete_kv (e : ErrCode) (m : BitVec 5) (f : BitVec 16) : (complete e m f s).status.kv = s.status.kv := rfl
@[simp] theorem complete_so (e : ErrCode) (m : BitVec 5) (f : BitVec 16) : (complete e m f s).status.so = s.status.so := rfl
@[simp] theorem complete_wdrop (e : ErrCode) (m : BitVec 5) (f : BitVec 16) : (complete e m f s).status.wdrop = s.status.wdrop := rfl
@[simp] theorem complete_err (e : ErrCode) (m : BitVec 5) (f : BitVec 16) : (complete e m f s).status.err = e.code := rfl
@[simp] theorem complete_esym (e : ErrCode) (m : BitVec 5) (f : BitVec 16) : (complete e m f s).status.esym = m := rfl
@[simp] theorem complete_failmask (e : ErrCode) (m : BitVec 5) (f : BitVec 16) : (complete e m f s).failmask = f := rfl
@[simp] theorem complete_dinHi (e : ErrCode) (m : BitVec 5) (f : BitVec 16) : (complete e m f s).dinHi = s.dinHi := rfl
@[simp] theorem complete_dinLo (e : ErrCode) (m : BitVec 5) (f : BitVec 16) : (complete e m f s).dinLo = s.dinLo := rfl
@[simp] theorem complete_doutHi (e : ErrCode) (m : BitVec 5) (f : BitVec 16) : (complete e m f s).doutHi = s.doutHi := rfl
@[simp] theorem complete_doutLo (e : ErrCode) (m : BitVec 5) (f : BitVec 16) : (complete e m f s).doutLo = s.doutLo := rfl
@[simp] theorem complete_keyStg (e : ErrCode) (m : BitVec 5) (f : BitVec 16) : (complete e m f s).keyStg = s.keyStg := rfl
@[simp] theorem complete_keyWr (e : ErrCode) (m : BitVec 5) (f : BitVec 16) : (complete e m f s).keyWr = s.keyWr := rfl
@[simp] theorem complete_keyAct (e : ErrCode) (m : BitVec 5) (f : BitVec 16) : (complete e m f s).keyAct = s.keyAct := rfl
@[simp] theorem complete_schedStg (e : ErrCode) (m : BitVec 5) (f : BitVec 16) : (complete e m f s).schedStg = s.schedStg := rfl
@[simp] theorem complete_schedWr (e : ErrCode) (m : BitVec 5) (f : BitVec 16) : (complete e m f s).schedWr = s.schedWr := rfl
@[simp] theorem complete_rkey (e : ErrCode) (m : BitVec 5) (f : BitVec 16) : (complete e m f s).rkey = s.rkey := rfl
@[simp] theorem complete_pbuf (e : ErrCode) (m : BitVec 5) (f : BitVec 16) : (complete e m f s).pbuf = s.pbuf := rfl
@[simp] theorem complete_sboxStg (e : ErrCode) (m : BitVec 5) (f : BitVec 16) : (complete e m f s).sboxStg = s.sboxStg := rfl
@[simp] theorem complete_sboxAct (e : ErrCode) (m : BitVec 5) (f : BitVec 16) : (complete e m f s).sboxAct = s.sboxAct := rfl
@[simp] theorem complete_port (e : ErrCode) (m : BitVec 5) (f : BitVec 16) : (complete e m f s).port = s.port := rfl

/-! ### writeDout -/

@[simp] theorem writeDout_pending (y : Block) : (writeDout y s).pending = s.pending := rfl
@[simp] theorem writeDout_status (y : Block) : (writeDout y s).status = s.status := rfl
@[simp] theorem writeDout_failmask (y : Block) : (writeDout y s).failmask = s.failmask := rfl
@[simp] theorem writeDout_dinHi (y : Block) : (writeDout y s).dinHi = s.dinHi := rfl
@[simp] theorem writeDout_dinLo (y : Block) : (writeDout y s).dinLo = s.dinLo := rfl
@[simp] theorem writeDout_doutHi (y : Block) : (writeDout y s).doutHi = (split64 y).1 := rfl
@[simp] theorem writeDout_doutLo (y : Block) : (writeDout y s).doutLo = (split64 y).2 := rfl
@[simp] theorem writeDout_keyStg (y : Block) : (writeDout y s).keyStg = s.keyStg := rfl
@[simp] theorem writeDout_keyWr (y : Block) : (writeDout y s).keyWr = s.keyWr := rfl
@[simp] theorem writeDout_keyAct (y : Block) : (writeDout y s).keyAct = s.keyAct := rfl
@[simp] theorem writeDout_schedStg (y : Block) : (writeDout y s).schedStg = s.schedStg := rfl
@[simp] theorem writeDout_schedWr (y : Block) : (writeDout y s).schedWr = s.schedWr := rfl
@[simp] theorem writeDout_rkey (y : Block) : (writeDout y s).rkey = s.rkey := rfl
@[simp] theorem writeDout_pbuf (y : Block) : (writeDout y s).pbuf = s.pbuf := rfl
@[simp] theorem writeDout_sboxStg (y : Block) : (writeDout y s).sboxStg = s.sboxStg := rfl
@[simp] theorem writeDout_sboxAct (y : Block) : (writeDout y s).sboxAct = s.sboxAct := rfl
@[simp] theorem writeDout_port (y : Block) : (writeDout y s).port = s.port := rfl

/-! ### writeDoutLow -/

@[simp] theorem writeDoutLow_pending (v : Word) : (writeDoutLow v s).pending = s.pending := rfl
@[simp] theorem writeDoutLow_status (v : Word) : (writeDoutLow v s).status = s.status := rfl
@[simp] theorem writeDoutLow_failmask (v : Word) : (writeDoutLow v s).failmask = s.failmask := rfl
@[simp] theorem writeDoutLow_dinHi (v : Word) : (writeDoutLow v s).dinHi = s.dinHi := rfl
@[simp] theorem writeDoutLow_dinLo (v : Word) : (writeDoutLow v s).dinLo = s.dinLo := rfl
@[simp] theorem writeDoutLow_doutHi (v : Word) : (writeDoutLow v s).doutHi = 0 := rfl
@[simp] theorem writeDoutLow_doutLo (v : Word) : (writeDoutLow v s).doutLo = v := rfl
@[simp] theorem writeDoutLow_keyStg (v : Word) : (writeDoutLow v s).keyStg = s.keyStg := rfl
@[simp] theorem writeDoutLow_keyWr (v : Word) : (writeDoutLow v s).keyWr = s.keyWr := rfl
@[simp] theorem writeDoutLow_keyAct (v : Word) : (writeDoutLow v s).keyAct = s.keyAct := rfl
@[simp] theorem writeDoutLow_schedStg (v : Word) : (writeDoutLow v s).schedStg = s.schedStg := rfl
@[simp] theorem writeDoutLow_schedWr (v : Word) : (writeDoutLow v s).schedWr = s.schedWr := rfl
@[simp] theorem writeDoutLow_rkey (v : Word) : (writeDoutLow v s).rkey = s.rkey := rfl
@[simp] theorem writeDoutLow_pbuf (v : Word) : (writeDoutLow v s).pbuf = s.pbuf := rfl
@[simp] theorem writeDoutLow_sboxStg (v : Word) : (writeDoutLow v s).sboxStg = s.sboxStg := rfl
@[simp] theorem writeDoutLow_sboxAct (v : Word) : (writeDoutLow v s).sboxAct = s.sboxAct := rfl
@[simp] theorem writeDoutLow_port (v : Word) : (writeDoutLow v s).port = s.port := rfl

/-! ### writePbuf -/

@[simp] theorem writePbuf_pending {L : Nat} (b : Vector Byte L) : (writePbuf b s).pending = s.pending := by simp only [writePbuf]
@[simp] theorem writePbuf_status {L : Nat} (b : Vector Byte L) : (writePbuf b s).status = s.status := by simp only [writePbuf]
@[simp] theorem writePbuf_failmask {L : Nat} (b : Vector Byte L) : (writePbuf b s).failmask = s.failmask := by simp only [writePbuf]
@[simp] theorem writePbuf_dinHi {L : Nat} (b : Vector Byte L) : (writePbuf b s).dinHi = s.dinHi := by simp only [writePbuf]
@[simp] theorem writePbuf_dinLo {L : Nat} (b : Vector Byte L) : (writePbuf b s).dinLo = s.dinLo := by simp only [writePbuf]
@[simp] theorem writePbuf_doutHi {L : Nat} (b : Vector Byte L) : (writePbuf b s).doutHi = s.doutHi := by simp only [writePbuf]
@[simp] theorem writePbuf_doutLo {L : Nat} (b : Vector Byte L) : (writePbuf b s).doutLo = s.doutLo := by simp only [writePbuf]
@[simp] theorem writePbuf_keyStg {L : Nat} (b : Vector Byte L) : (writePbuf b s).keyStg = s.keyStg := by simp only [writePbuf]
@[simp] theorem writePbuf_keyWr {L : Nat} (b : Vector Byte L) : (writePbuf b s).keyWr = s.keyWr := by simp only [writePbuf]
@[simp] theorem writePbuf_keyAct {L : Nat} (b : Vector Byte L) : (writePbuf b s).keyAct = s.keyAct := by simp only [writePbuf]
@[simp] theorem writePbuf_schedStg {L : Nat} (b : Vector Byte L) : (writePbuf b s).schedStg = s.schedStg := by simp only [writePbuf]
@[simp] theorem writePbuf_schedWr {L : Nat} (b : Vector Byte L) : (writePbuf b s).schedWr = s.schedWr := by simp only [writePbuf]
@[simp] theorem writePbuf_rkey {L : Nat} (b : Vector Byte L) : (writePbuf b s).rkey = s.rkey := by simp only [writePbuf]
@[simp] theorem writePbuf_sboxStg {L : Nat} (b : Vector Byte L) : (writePbuf b s).sboxStg = s.sboxStg := by simp only [writePbuf]
@[simp] theorem writePbuf_sboxAct {L : Nat} (b : Vector Byte L) : (writePbuf b s).sboxAct = s.sboxAct := by simp only [writePbuf]
@[simp] theorem writePbuf_port {L : Nat} (b : Vector Byte L) : (writePbuf b s).port = s.port := by simp only [writePbuf]

/-! ### commit -/

@[simp] theorem commit_pending (k : Vector Word 8) (r : Vector Word 32) (o : Bool) : (commit k r o s).pending = s.pending := rfl
@[simp] theorem commit_busy (k : Vector Word 8) (r : Vector Word 32) (o : Bool) : (commit k r o s).status.busy = s.status.busy := rfl
@[simp] theorem commit_kv (k : Vector Word 8) (r : Vector Word 32) (o : Bool) : (commit k r o s).status.kv = true := rfl
@[simp] theorem commit_so (k : Vector Word 8) (r : Vector Word 32) (o : Bool) : (commit k r o s).status.so = o := rfl
@[simp] theorem commit_wdrop (k : Vector Word 8) (r : Vector Word 32) (o : Bool) : (commit k r o s).status.wdrop = s.status.wdrop := rfl
@[simp] theorem commit_err (k : Vector Word 8) (r : Vector Word 32) (o : Bool) : (commit k r o s).status.err = s.status.err := rfl
@[simp] theorem commit_esym (k : Vector Word 8) (r : Vector Word 32) (o : Bool) : (commit k r o s).status.esym = s.status.esym := rfl
@[simp] theorem commit_failmask (k : Vector Word 8) (r : Vector Word 32) (o : Bool) : (commit k r o s).failmask = s.failmask := rfl
@[simp] theorem commit_dinHi (k : Vector Word 8) (r : Vector Word 32) (o : Bool) : (commit k r o s).dinHi = s.dinHi := rfl
@[simp] theorem commit_dinLo (k : Vector Word 8) (r : Vector Word 32) (o : Bool) : (commit k r o s).dinLo = s.dinLo := rfl
@[simp] theorem commit_doutHi (k : Vector Word 8) (r : Vector Word 32) (o : Bool) : (commit k r o s).doutHi = s.doutHi := rfl
@[simp] theorem commit_doutLo (k : Vector Word 8) (r : Vector Word 32) (o : Bool) : (commit k r o s).doutLo = s.doutLo := rfl
@[simp] theorem commit_keyStg (k : Vector Word 8) (r : Vector Word 32) (o : Bool) : (commit k r o s).keyStg = s.keyStg := rfl
@[simp] theorem commit_keyWr (k : Vector Word 8) (r : Vector Word 32) (o : Bool) : (commit k r o s).keyWr = s.keyWr := rfl
@[simp] theorem commit_keyAct (k : Vector Word 8) (r : Vector Word 32) (o : Bool) : (commit k r o s).keyAct = k := rfl
@[simp] theorem commit_schedStg (k : Vector Word 8) (r : Vector Word 32) (o : Bool) : (commit k r o s).schedStg = s.schedStg := rfl
@[simp] theorem commit_schedWr (k : Vector Word 8) (r : Vector Word 32) (o : Bool) : (commit k r o s).schedWr = s.schedWr := rfl
@[simp] theorem commit_rkey (k : Vector Word 8) (r : Vector Word 32) (o : Bool) : (commit k r o s).rkey = r := rfl
@[simp] theorem commit_pbuf (k : Vector Word 8) (r : Vector Word 32) (o : Bool) : (commit k r o s).pbuf = s.pbuf := rfl
@[simp] theorem commit_sboxStg (k : Vector Word 8) (r : Vector Word 32) (o : Bool) : (commit k r o s).sboxStg = s.sboxStg := rfl
@[simp] theorem commit_sboxAct (k : Vector Word 8) (r : Vector Word 32) (o : Bool) : (commit k r o s).sboxAct = s.sboxStg := rfl
@[simp] theorem commit_port (k : Vector Word 8) (r : Vector Word 32) (o : Bool) : (commit k r o s).port = s.port := rfl

/-! ### acceptCommand -/

@[simp] theorem acceptCommand_pending (v : Word) : (acceptCommand v s).pending = some v := rfl
@[simp] theorem acceptCommand_busy (v : Word) : (acceptCommand v s).status.busy = true := rfl
@[simp] theorem acceptCommand_kv (v : Word) : (acceptCommand v s).status.kv = s.status.kv := rfl
@[simp] theorem acceptCommand_so (v : Word) : (acceptCommand v s).status.so = s.status.so := rfl
@[simp] theorem acceptCommand_wdrop (v : Word) : (acceptCommand v s).status.wdrop = s.status.wdrop := rfl
@[simp] theorem acceptCommand_err (v : Word) : (acceptCommand v s).status.err = s.status.err := rfl
@[simp] theorem acceptCommand_esym (v : Word) : (acceptCommand v s).status.esym = s.status.esym := rfl
@[simp] theorem acceptCommand_failmask (v : Word) : (acceptCommand v s).failmask = s.failmask := rfl
@[simp] theorem acceptCommand_dinHi (v : Word) : (acceptCommand v s).dinHi = s.dinHi := rfl
@[simp] theorem acceptCommand_dinLo (v : Word) : (acceptCommand v s).dinLo = s.dinLo := rfl
@[simp] theorem acceptCommand_doutHi (v : Word) : (acceptCommand v s).doutHi = s.doutHi := rfl
@[simp] theorem acceptCommand_doutLo (v : Word) : (acceptCommand v s).doutLo = s.doutLo := rfl
@[simp] theorem acceptCommand_keyStg (v : Word) : (acceptCommand v s).keyStg = s.keyStg := rfl
@[simp] theorem acceptCommand_keyWr (v : Word) : (acceptCommand v s).keyWr = s.keyWr := rfl
@[simp] theorem acceptCommand_keyAct (v : Word) : (acceptCommand v s).keyAct = s.keyAct := rfl
@[simp] theorem acceptCommand_schedStg (v : Word) : (acceptCommand v s).schedStg = s.schedStg := rfl
@[simp] theorem acceptCommand_schedWr (v : Word) : (acceptCommand v s).schedWr = s.schedWr := rfl
@[simp] theorem acceptCommand_rkey (v : Word) : (acceptCommand v s).rkey = s.rkey := rfl
@[simp] theorem acceptCommand_pbuf (v : Word) : (acceptCommand v s).pbuf = s.pbuf := rfl
@[simp] theorem acceptCommand_sboxStg (v : Word) : (acceptCommand v s).sboxStg = s.sboxStg := rfl
@[simp] theorem acceptCommand_sboxAct (v : Word) : (acceptCommand v s).sboxAct = s.sboxAct := rfl
@[simp] theorem acceptCommand_port (v : Word) : (acceptCommand v s).port = s.port := rfl

/-! ### dropWrite -/

@[simp] theorem dropWrite_pending : (dropWrite s).pending = s.pending := rfl
@[simp] theorem dropWrite_busy : (dropWrite s).status.busy = s.status.busy := rfl
@[simp] theorem dropWrite_kv : (dropWrite s).status.kv = s.status.kv := rfl
@[simp] theorem dropWrite_so : (dropWrite s).status.so = s.status.so := rfl
@[simp] theorem dropWrite_wdrop : (dropWrite s).status.wdrop = true := rfl
@[simp] theorem dropWrite_err : (dropWrite s).status.err = s.status.err := rfl
@[simp] theorem dropWrite_esym : (dropWrite s).status.esym = s.status.esym := rfl
@[simp] theorem dropWrite_failmask : (dropWrite s).failmask = s.failmask := rfl
@[simp] theorem dropWrite_dinHi : (dropWrite s).dinHi = s.dinHi := rfl
@[simp] theorem dropWrite_dinLo : (dropWrite s).dinLo = s.dinLo := rfl
@[simp] theorem dropWrite_doutHi : (dropWrite s).doutHi = s.doutHi := rfl
@[simp] theorem dropWrite_doutLo : (dropWrite s).doutLo = s.doutLo := rfl
@[simp] theorem dropWrite_keyStg : (dropWrite s).keyStg = s.keyStg := rfl
@[simp] theorem dropWrite_keyWr : (dropWrite s).keyWr = s.keyWr := rfl
@[simp] theorem dropWrite_keyAct : (dropWrite s).keyAct = s.keyAct := rfl
@[simp] theorem dropWrite_schedStg : (dropWrite s).schedStg = s.schedStg := rfl
@[simp] theorem dropWrite_schedWr : (dropWrite s).schedWr = s.schedWr := rfl
@[simp] theorem dropWrite_rkey : (dropWrite s).rkey = s.rkey := rfl
@[simp] theorem dropWrite_pbuf : (dropWrite s).pbuf = s.pbuf := rfl
@[simp] theorem dropWrite_sboxStg : (dropWrite s).sboxStg = s.sboxStg := rfl
@[simp] theorem dropWrite_sboxAct : (dropWrite s).sboxAct = s.sboxAct := rfl
@[simp] theorem dropWrite_port : (dropWrite s).port = s.port := rfl

/-! ### setTurns -/

@[simp] theorem setTurns_pending (ts : List Turn) : (setTurns ts s).pending = s.pending := rfl
@[simp] theorem setTurns_status (ts : List Turn) : (setTurns ts s).status = s.status := rfl
@[simp] theorem setTurns_failmask (ts : List Turn) : (setTurns ts s).failmask = s.failmask := rfl
@[simp] theorem setTurns_dinHi (ts : List Turn) : (setTurns ts s).dinHi = s.dinHi := rfl
@[simp] theorem setTurns_dinLo (ts : List Turn) : (setTurns ts s).dinLo = s.dinLo := rfl
@[simp] theorem setTurns_doutHi (ts : List Turn) : (setTurns ts s).doutHi = s.doutHi := rfl
@[simp] theorem setTurns_doutLo (ts : List Turn) : (setTurns ts s).doutLo = s.doutLo := rfl
@[simp] theorem setTurns_keyStg (ts : List Turn) : (setTurns ts s).keyStg = s.keyStg := rfl
@[simp] theorem setTurns_keyWr (ts : List Turn) : (setTurns ts s).keyWr = s.keyWr := rfl
@[simp] theorem setTurns_keyAct (ts : List Turn) : (setTurns ts s).keyAct = s.keyAct := rfl
@[simp] theorem setTurns_schedStg (ts : List Turn) : (setTurns ts s).schedStg = s.schedStg := rfl
@[simp] theorem setTurns_schedWr (ts : List Turn) : (setTurns ts s).schedWr = s.schedWr := rfl
@[simp] theorem setTurns_rkey (ts : List Turn) : (setTurns ts s).rkey = s.rkey := rfl
@[simp] theorem setTurns_pbuf (ts : List Turn) : (setTurns ts s).pbuf = s.pbuf := rfl
@[simp] theorem setTurns_sboxStg (ts : List Turn) : (setTurns ts s).sboxStg = s.sboxStg := rfl
@[simp] theorem setTurns_sboxAct (ts : List Turn) : (setTurns ts s).sboxAct = s.sboxAct := rfl
@[simp] theorem setTurns_port (ts : List Turn) : (setTurns ts s).port = { s.port with turns := ts } := rfl

/-! ### reply -/

@[simp] theorem reply_pending (v : Word) : (reply v s).pending = s.pending := rfl
@[simp] theorem reply_status (v : Word) : (reply v s).status = s.status := rfl
@[simp] theorem reply_failmask (v : Word) : (reply v s).failmask = s.failmask := rfl
@[simp] theorem reply_dinHi (v : Word) : (reply v s).dinHi = s.dinHi := rfl
@[simp] theorem reply_dinLo (v : Word) : (reply v s).dinLo = s.dinLo := rfl
@[simp] theorem reply_doutHi (v : Word) : (reply v s).doutHi = s.doutHi := rfl
@[simp] theorem reply_doutLo (v : Word) : (reply v s).doutLo = s.doutLo := rfl
@[simp] theorem reply_keyStg (v : Word) : (reply v s).keyStg = s.keyStg := rfl
@[simp] theorem reply_keyWr (v : Word) : (reply v s).keyWr = s.keyWr := rfl
@[simp] theorem reply_keyAct (v : Word) : (reply v s).keyAct = s.keyAct := rfl
@[simp] theorem reply_schedStg (v : Word) : (reply v s).schedStg = s.schedStg := rfl
@[simp] theorem reply_schedWr (v : Word) : (reply v s).schedWr = s.schedWr := rfl
@[simp] theorem reply_rkey (v : Word) : (reply v s).rkey = s.rkey := rfl
@[simp] theorem reply_pbuf (v : Word) : (reply v s).pbuf = s.pbuf := rfl
@[simp] theorem reply_sboxStg (v : Word) : (reply v s).sboxStg = s.sboxStg := rfl
@[simp] theorem reply_sboxAct (v : Word) : (reply v s).sboxAct = s.sboxAct := rfl
@[simp] theorem reply_port (v : Word) : (reply v s).port = { s.port with replies := v :: s.port.replies } := rfl

/-! ### completedOk -/

@[simp] theorem completedOk_pending : (completedOk s).pending = none := rfl
@[simp] theorem completedOk_busy : (completedOk s).status.busy = false := rfl
@[simp] theorem completedOk_kv : (completedOk s).status.kv = s.status.kv := rfl
@[simp] theorem completedOk_so : (completedOk s).status.so = s.status.so := rfl
@[simp] theorem completedOk_wdrop : (completedOk s).status.wdrop = s.status.wdrop := rfl
@[simp] theorem completedOk_err : (completedOk s).status.err = 0 := rfl
@[simp] theorem completedOk_esym : (completedOk s).status.esym = 0 := rfl
@[simp] theorem completedOk_failmask : (completedOk s).failmask = 0 := rfl
@[simp] theorem completedOk_dinHi : (completedOk s).dinHi = s.dinHi := rfl
@[simp] theorem completedOk_dinLo : (completedOk s).dinLo = s.dinLo := rfl
@[simp] theorem completedOk_doutHi : (completedOk s).doutHi = s.doutHi := rfl
@[simp] theorem completedOk_doutLo : (completedOk s).doutLo = s.doutLo := rfl
@[simp] theorem completedOk_keyStg : (completedOk s).keyStg = s.keyStg := rfl
@[simp] theorem completedOk_keyWr : (completedOk s).keyWr = s.keyWr := rfl
@[simp] theorem completedOk_keyAct : (completedOk s).keyAct = s.keyAct := rfl
@[simp] theorem completedOk_schedStg : (completedOk s).schedStg = s.schedStg := rfl
@[simp] theorem completedOk_schedWr : (completedOk s).schedWr = s.schedWr := rfl
@[simp] theorem completedOk_rkey : (completedOk s).rkey = s.rkey := rfl
@[simp] theorem completedOk_pbuf : (completedOk s).pbuf = s.pbuf := rfl
@[simp] theorem completedOk_sboxStg : (completedOk s).sboxStg = s.sboxStg := rfl
@[simp] theorem completedOk_sboxAct : (completedOk s).sboxAct = s.sboxAct := rfl
@[simp] theorem completedOk_port : (completedOk s).port = s.port := rfl

/-! ### completedErr -/

@[simp] theorem completedErr_pending (c : BitVec 4) (m : BitVec 5) (f : BitVec 16) : (completedErr c m f s).pending = none := rfl
@[simp] theorem completedErr_busy (c : BitVec 4) (m : BitVec 5) (f : BitVec 16) : (completedErr c m f s).status.busy = false := rfl
@[simp] theorem completedErr_kv (c : BitVec 4) (m : BitVec 5) (f : BitVec 16) : (completedErr c m f s).status.kv = s.status.kv := rfl
@[simp] theorem completedErr_so (c : BitVec 4) (m : BitVec 5) (f : BitVec 16) : (completedErr c m f s).status.so = s.status.so := rfl
@[simp] theorem completedErr_wdrop (c : BitVec 4) (m : BitVec 5) (f : BitVec 16) : (completedErr c m f s).status.wdrop = s.status.wdrop := rfl
@[simp] theorem completedErr_err (c : BitVec 4) (m : BitVec 5) (f : BitVec 16) : (completedErr c m f s).status.err = c := rfl
@[simp] theorem completedErr_esym (c : BitVec 4) (m : BitVec 5) (f : BitVec 16) : (completedErr c m f s).status.esym = m := rfl
@[simp] theorem completedErr_failmask (c : BitVec 4) (m : BitVec 5) (f : BitVec 16) : (completedErr c m f s).failmask = f := rfl
@[simp] theorem completedErr_dinHi (c : BitVec 4) (m : BitVec 5) (f : BitVec 16) : (completedErr c m f s).dinHi = s.dinHi := rfl
@[simp] theorem completedErr_dinLo (c : BitVec 4) (m : BitVec 5) (f : BitVec 16) : (completedErr c m f s).dinLo = s.dinLo := rfl
@[simp] theorem completedErr_doutHi (c : BitVec 4) (m : BitVec 5) (f : BitVec 16) : (completedErr c m f s).doutHi = s.doutHi := rfl
@[simp] theorem completedErr_doutLo (c : BitVec 4) (m : BitVec 5) (f : BitVec 16) : (completedErr c m f s).doutLo = s.doutLo := rfl
@[simp] theorem completedErr_keyStg (c : BitVec 4) (m : BitVec 5) (f : BitVec 16) : (completedErr c m f s).keyStg = s.keyStg := rfl
@[simp] theorem completedErr_keyWr (c : BitVec 4) (m : BitVec 5) (f : BitVec 16) : (completedErr c m f s).keyWr = s.keyWr := rfl
@[simp] theorem completedErr_keyAct (c : BitVec 4) (m : BitVec 5) (f : BitVec 16) : (completedErr c m f s).keyAct = s.keyAct := rfl
@[simp] theorem completedErr_schedStg (c : BitVec 4) (m : BitVec 5) (f : BitVec 16) : (completedErr c m f s).schedStg = s.schedStg := rfl
@[simp] theorem completedErr_schedWr (c : BitVec 4) (m : BitVec 5) (f : BitVec 16) : (completedErr c m f s).schedWr = s.schedWr := rfl
@[simp] theorem completedErr_rkey (c : BitVec 4) (m : BitVec 5) (f : BitVec 16) : (completedErr c m f s).rkey = s.rkey := rfl
@[simp] theorem completedErr_pbuf (c : BitVec 4) (m : BitVec 5) (f : BitVec 16) : (completedErr c m f s).pbuf = s.pbuf := rfl
@[simp] theorem completedErr_sboxStg (c : BitVec 4) (m : BitVec 5) (f : BitVec 16) : (completedErr c m f s).sboxStg = s.sboxStg := rfl
@[simp] theorem completedErr_sboxAct (c : BitVec 4) (m : BitVec 5) (f : BitVec 16) : (completedErr c m f s).sboxAct = s.sboxAct := rfl
@[simp] theorem completedErr_port (c : BitVec 4) (m : BitVec 5) (f : BitVec 16) : (completedErr c m f s).port = s.port := rfl

/-! ### assertReset -/

@[simp] theorem assertReset_pending : (assertReset s).pending = State.reset.pending := rfl
@[simp] theorem assertReset_status : (assertReset s).status = State.reset.status := rfl
@[simp] theorem assertReset_failmask : (assertReset s).failmask = State.reset.failmask := rfl
@[simp] theorem assertReset_dinHi : (assertReset s).dinHi = State.reset.dinHi := rfl
@[simp] theorem assertReset_dinLo : (assertReset s).dinLo = State.reset.dinLo := rfl
@[simp] theorem assertReset_doutHi : (assertReset s).doutHi = State.reset.doutHi := rfl
@[simp] theorem assertReset_doutLo : (assertReset s).doutLo = State.reset.doutLo := rfl
@[simp] theorem assertReset_keyStg : (assertReset s).keyStg = State.reset.keyStg := rfl
@[simp] theorem assertReset_keyWr : (assertReset s).keyWr = State.reset.keyWr := rfl
@[simp] theorem assertReset_keyAct : (assertReset s).keyAct = State.reset.keyAct := rfl
@[simp] theorem assertReset_schedStg : (assertReset s).schedStg = State.reset.schedStg := rfl
@[simp] theorem assertReset_schedWr : (assertReset s).schedWr = State.reset.schedWr := rfl
@[simp] theorem assertReset_rkey : (assertReset s).rkey = State.reset.rkey := rfl
@[simp] theorem assertReset_pbuf : (assertReset s).pbuf = State.reset.pbuf := rfl
@[simp] theorem assertReset_sboxStg : (assertReset s).sboxStg = State.reset.sboxStg := rfl
@[simp] theorem assertReset_sboxAct : (assertReset s).sboxAct = State.reset.sboxAct := rfl
@[simp] theorem assertReset_port : (assertReset s).port = s.port := rfl

/-! ### Updates of the port and of the registers commute -/

theorem complete_setTurns (e : ErrCode) (m : BitVec 5) (f : BitVec 16) (ts : List Turn) :
    complete e m f (setTurns ts s) = setTurns ts (complete e m f s) := rfl

theorem setTurns_setTurns (ts us : List Turn) : setTurns ts (setTurns us s) = setTurns ts s := rfl

theorem setTurns_self : setTurns s.port.turns s = s := rfl

@[simp] theorem withProgram_eq (ts : List Turn) : withProgram ts s = setTurns ts s := rfl

/-- Placing a command is an acceptance, the engine next. -/
theorem placeCommand_eq (w : Word) :
    placeCommand w s = setTurns (.engine :: s.port.turns) (acceptCommand w s) := rfl

/-- The model's `complete` is the claims' `completedErr`. -/
theorem complete_eq_completedErr (e : ErrCode) (m : BitVec 5) (f : BitVec 16) :
    complete e m f s = completedErr e.code m f s := rfl

/-- `complete(OK)` is the claims' `completedOk`. -/
theorem complete_ok_eq_completedOk : complete .ok 0 0 s = completedOk s := rfl

end Sys2Proof.Machine
end

