-- ==== Sys2Proof/Laws/Ops.lean ====
section
/-! SUPPORT. Laws/Ops.lean: what each shared operation can do, said once. -/

namespace Sys2Proof.Machine

/-! ## Completion -/

@[simp] theorem finish_eq (s : State) : finish s = .next (completedOk s) := rfl

@[simp] theorem raiseError_eq (e : ErrCode) (m : BitVec 5) (f : BitVec 16) (s : State) :
    raiseError e m f s = .next (completedErr e.code m f s) := rfl

/-- Every result code is one of 0..4 (60_exceptions.md R321). -/
theorem ErrCode.code_le (e : ErrCode) : e.code.toNat ≤ 4 := by cases e <;> decide

/-! ## PBUF -/

/-- A written byte of PBUF, and a byte above the written ones (43_composition.md R282). -/
theorem writePbuf_get {L : Nat} (b : Vector Byte L) (s : State) (k : Nat) (hk : k < 24) :
    (writePbuf b s).pbuf[k] = if h : k < L then b[k] else s.pbuf[k] := by
  simp [writePbuf]

/-! ## The host's accesses -/

/-- A dropped write changes WDROP alone (20_memory.md R105). -/
theorem busWrite_busy (off : Offset) (v : Word) (s : State) (h : s.status.busy = true) :
    busWrite off v s = dropWrite s := by simp [busWrite, h]

/-- A write to a reserved offset while idle changes nothing (R103). -/
theorem busWrite_reserved (off : Offset) (v : Word) (s : State) (h : s.status.busy = false)
    (hr : regAt off = none) : busWrite off v s = s := by simp [busWrite, h, hr]

/-- A write to a register while idle is that register's rule (R106). -/
theorem busWrite_idle (off : Offset) (v : Word) (s : State) (r : Reg) (h : s.status.busy = false)
    (hr : regAt off = some r) : busWrite off v s = writeReg r v s := by simp [busWrite, h, hr]

/-- Everything a host write can do: it is dropped, ignored, or one register's rule. -/
theorem busWrite_cases (off : Offset) (v : Word) (s : State) :
    (s.status.busy = true ∧ busWrite off v s = dropWrite s) ∨
    (s.status.busy = false ∧ regAt off = none ∧ busWrite off v s = s) ∨
    ∃ r, s.status.busy = false ∧ regAt off = some r ∧ busWrite off v s = writeReg r v s := by
  cases h : s.status.busy with
  | true => exact .inl ⟨rfl, busWrite_busy off v s h⟩
  | false =>
    cases hr : regAt off with
    | none => exact .inr (.inl ⟨rfl, rfl, busWrite_reserved off v s h hr⟩)
    | some r => exact .inr (.inr ⟨r, rfl, rfl, busWrite_idle off v s r h hr⟩)

/-- What no host write to a register changes: results and active stores (R106, R103). -/
theorem writeReg_frame (r : Reg) (v : Word) (s : State) :
    (writeReg r v s).failmask = s.failmask ∧ (writeReg r v s).doutHi = s.doutHi ∧
    (writeReg r v s).doutLo = s.doutLo ∧ (writeReg r v s).keyAct = s.keyAct ∧
    (writeReg r v s).rkey = s.rkey ∧ (writeReg r v s).sboxAct = s.sboxAct ∧
    (writeReg r v s).status.kv = s.status.kv ∧ (writeReg r v s).status.so = s.status.so ∧
    (writeReg r v s).status.err = s.status.err ∧ (writeReg r v s).status.esym = s.status.esym ∧
    (writeReg r v s).port = s.port := by
  cases r <;> simp [writeReg]

/-- A host write to a register keeps BUSY equal to "something is pending" (10_state.md R55). -/
theorem writeReg_busy (r : Reg) (v : Word) (s : State) (h : s.status.busy = s.pending.isSome) :
    (writeReg r v s).status.busy = (writeReg r v s).pending.isSome := by
  cases r <;> simp [writeReg, h]

/-- The same of any write in the window, which also leaves the port alone. -/
theorem busWrite_frame (off : Offset) (v : Word) (s : State) :
    (busWrite off v s).failmask = s.failmask ∧ (busWrite off v s).doutHi = s.doutHi ∧
    (busWrite off v s).doutLo = s.doutLo ∧ (busWrite off v s).keyAct = s.keyAct ∧
    (busWrite off v s).rkey = s.rkey ∧ (busWrite off v s).sboxAct = s.sboxAct ∧
    (busWrite off v s).status.kv = s.status.kv ∧ (busWrite off v s).status.so = s.status.so ∧
    (busWrite off v s).status.err = s.status.err ∧ (busWrite off v s).status.esym = s.status.esym ∧
    (busWrite off v s).port = s.port := by
  obtain ⟨-, h⟩ | ⟨-, -, h⟩ | ⟨r, -, -, h⟩ := busWrite_cases off v s <;> rw [h]
  · simp
  · simp
  · exact writeReg_frame r v s

/-- A write of the window keeps BUSY equal to "something is pending" (R55). -/
theorem busWrite_busy_iff (off : Offset) (v : Word) (s : State) (h : s.status.busy = s.pending.isSome) :
    (busWrite off v s).status.busy = (busWrite off v s).pending.isSome := by
  obtain ⟨-, e⟩ | ⟨-, -, e⟩ | ⟨r, -, -, e⟩ := busWrite_cases off v s <;> rw [e]
  · simpa using h
  · exact h
  · exact writeReg_busy r v s h

/-! ## The result mask -/

/-- Bit j of the mask says that slot j failed (43_composition.md R290). -/
theorem failMask_getLsbD {α : Type} {n : Nat} (res : Vector (Option α) n) (j : Nat) (hj : j < 16) :
    (failMask res).getLsbD j = if h : j < n then res[j].isNone else false := by
  simp [failMask, hj]

/-- The mask is 0 exactly when no slot failed. -/
theorem failMask_eq_zero {α : Type} {n : Nat} (hn : n ≤ 16) (res : Vector (Option α) n) :
    failMask res = 0 ↔ ∀ j (h : j < n), res[j].isSome = true := by
  constructor
  · intro h j hj
    have := failMask_getLsbD res j (by omega)
    rw [h] at this
    simpa [hj] using this.symm
  · intro h
    apply BitVec.eq_of_getLsbD_eq
    intro j hj
    rw [failMask_getLsbD res j hj]
    split
    · next h' => simpa using h j h'
    · simp

/-- `ctz` of a value with a one bit: it is inside the width, its bit is 1 and every lower bit is 0 (00_scope.md R12). -/
theorem ctz_spec {n : Nat} (v : BitVec n) (h : v ≠ 0) :
    ctz v < n ∧ v.getLsbD (ctz v) = true ∧ ∀ j < ctz v, v.getLsbD j = false := by
  have hex : ∃ j ∈ List.range n, v.getLsbD j = true := by
    by_contra hc
    apply h
    apply BitVec.eq_of_getLsbD_eq
    intro j hj
    have : ¬ v.getLsbD j = true := fun ht => hc ⟨j, List.mem_range.mpr hj, ht⟩
    simpa using this
  have hlt : ctz v < (List.range n).length := List.findIdx_lt_length_of_exists (by simpa using hex)
  refine ⟨by simpa using hlt, ?_, ?_⟩
  · have hat : v.getLsbD ((List.range n)[ctz v]'hlt) = true := List.findIdx_getElem (w := hlt)
    simpa using hat
  · intro j hj
    have := List.not_of_lt_findIdx hj
    simpa using this

end Sys2Proof.Machine
end

