-- ==== Sys2Proof/Laws/Exec.lean ====
section
/-! SUPPORT. Laws/Exec.lean: what a command's completion can do, said once: the errors it can raise, the writes a success
makes, and one inversion lemma over both. -/

namespace Sys2Proof.Machine

/-- The errors a legal command can raise with their info (60_exceptions.md R321): CONSTRUCTION and UNCORRECTABLE record
nothing, COMPOSITION records every failing slot and the lowest. -/
def Raises (e : ErrCode) (m : BitVec 5) (f : BitVec 16) : Prop :=
  ((e = .construction ∨ e = .uncorrectable) ∧ m = 0 ∧ f = 0) ∨ (e = .composition ∧ f ≠ 0 ∧ m = firstFailing f)

/-- The data and commit writes a successful command makes, before it completes: the "writes" column of 30_encoding.md
R136. -/
def Writes (i : Instr) (s u : State) : Prop :=
  match i with
  | .enc => u = writeDout (encrypt s.sboxAct s.rkey (din s)) s
  | .dec => u = writeDout (decrypt s.sboxAct s.rkey (din s)) s
  | .rekey => u = commit s.keyStg (sched s.keyStg) false { s with keyWr := 0 }
  | .rekeyZ => u = commit (Vector.replicate 8 0) (Vector.replicate 32 0) false s
  | .loadsched => u = commit (Vector.replicate 8 0) s.schedStg true { s with schedWr := 0 }
  | .henc => u = writeDoutLow ((hEnc (dinNibble s)).setWidth 32) s
  | .hdec => u = writeDoutLow ((hDec (dinHWord s)).setWidth 32) s
  | .renc => u = writeDoutLow ((rEnc (dinByte s)).setWidth 32) s
  | .rdec => ∃ b : Byte, u = writeDoutLow (b.setWidth 32) s
  | .penc => u = writeDoutLow (pEnc (dinHalf s)) s
  | .pdec => ∃ d : Half, u = writeDoutLow (d.setWidth 32) s
  | .gencH => u = writePbuf (frameH (encrypt s.sboxAct s.rkey (din s))) s
  | .gencR => u = writePbuf (frameR (encrypt s.sboxAct s.rkey (din s))) s
  | .gencP => u = writePbuf (frameP (encrypt s.sboxAct s.rkey (din s))) s
  | .gdecH => ∃ ct : Block, u = writeDout (decrypt s.sboxAct s.rkey ct) s
  | .gdecR => ∃ ct : Block, u = writeDout (decrypt s.sboxAct s.rkey ct) s
  | .gdecP => ∃ ct : Block, u = writeDout (decrypt s.sboxAct s.rkey ct) s

/-! ## The shared procedures -/

theorem genc_ready {L : Nat} (frame : Block → Vector Byte L) (s : State) (h : s.status.kv = true) :
    genc frame s = .next (completedOk (writePbuf (frame (encrypt s.sboxAct s.rkey (din s))) s)) := by
  simp [genc, h]

theorem genc_unready {L : Nat} (frame : Block → Vector Byte L) (s : State) (h : s.status.kv = false) :
    genc frame s = .next (completedErr 2 0 0 s) := by
  simp [genc, h, ErrCode.code]

theorem gdec_unready {w n : Nat} (unframe : Vector Byte 24 → Vector (Option (BitVec w)) n) (s : State)
    (h : s.status.kv = false) : gdec unframe s = .next (completedErr 2 0 0 s) := by
  simp [gdec, h, ErrCode.code]

theorem gdec_failing {w n : Nat} (unframe : Vector Byte 24 → Vector (Option (BitVec w)) n) (s : State)
    (h : s.status.kv = true) (hf : failMask (unframe s.pbuf) ≠ 0) :
    gdec unframe s =
      .next (completedErr 4 (firstFailing (failMask (unframe s.pbuf))) (failMask (unframe s.pbuf)) s) := by
  simp only [gdec, h, if_true]
  rw [if_pos hf]
  rfl

theorem gdec_decoded {w n : Nat} (unframe : Vector Byte 24 → Vector (Option (BitVec w)) n) (s : State)
    (h : s.status.kv = true) (hf : failMask (unframe s.pbuf) = 0) :
    gdec unframe s =
      .next (completedOk (writeDout (decrypt s.sboxAct s.rkey (joinSymbols (unframe s.pbuf))) s)) := by
  simp only [gdec, h, if_true]
  rw [if_neg (not_not.mpr hf)]
  rfl

/-- A composed decode ends in one of three ways (43_composition.md R290). -/
theorem gdec_cases {w n : Nat} (unframe : Vector Byte 24 → Vector (Option (BitVec w)) n) (s t : State)
    (h : gdec unframe s = .next t) :
    (∃ e m f, Raises e m f ∧ t = completedErr e.code m f s) ∨
    ∃ u, (∃ ct : Block, u = writeDout (decrypt s.sboxAct s.rkey ct) s) ∧ t = completedOk u := by
  cases hk : s.status.kv with
  | false =>
    rw [gdec_unready unframe s hk] at h
    exact .inl ⟨.construction, 0, 0, .inl ⟨.inl rfl, rfl, rfl⟩, by injection h with h; exact h.symm⟩
  | true =>
    by_cases hf : failMask (unframe s.pbuf) = 0
    · rw [gdec_decoded unframe s hk hf] at h
      exact .inr ⟨_, ⟨_, rfl⟩, by injection h with h; exact h.symm⟩
    · rw [gdec_failing unframe s hk hf] at h
      exact .inl ⟨.composition, _, _, .inr ⟨rfl, hf, rfl⟩, by injection h with h; exact h.symm⟩

/-! ## Every command -/

/-- A command's completion is either an error entry, which makes no other write (60_exceptions.md R328), or a success after
the command's own writes. -/
theorem exec_cases (i : Instr) (s t : State) (h : exec i s = .next t) :
    (∃ e m f, Raises e m f ∧ t = completedErr e.code m f s) ∨ ∃ u, Writes i s u ∧ t = completedOk u := by
  have raised : ∀ e, (e = ErrCode.construction ∨ e = .uncorrectable) →
      (Host.Outcome.next (completedErr e.code 0 0 s) : Result) = .next t →
      ∃ e m f, Raises e m f ∧ t = completedErr e.code m f s := fun e he hn =>
    ⟨e, 0, 0, .inl ⟨he, rfl, rfl⟩, by injection hn with hn; exact hn.symm⟩
  have done : ∀ u, (Host.Outcome.next (completedOk u) : Result) = .next t → t = completedOk u := fun u hn => by
    injection hn with hn; exact hn.symm
  cases i with
  | enc =>
    simp only [exec, execEnc, finish_eq, raiseError_eq] at h
    split at h
    · exact .inr ⟨_, rfl, done _ h⟩
    · exact .inl (raised _ (.inl rfl) h)
  | dec =>
    simp only [exec, execDec, finish_eq, raiseError_eq] at h
    split at h
    · exact .inr ⟨_, rfl, done _ h⟩
    · exact .inl (raised _ (.inl rfl) h)
  | rekey =>
    simp only [exec, execRekey, finish_eq, raiseError_eq] at h
    split at h
    · exact .inr ⟨_, rfl, done _ h⟩
    · exact .inl (raised _ (.inl rfl) h)
  | rekeyZ => exact .inr ⟨_, rfl, done _ h⟩
  | loadsched =>
    simp only [exec, execLoadsched, finish_eq, raiseError_eq] at h
    split at h
    · exact .inr ⟨_, rfl, done _ h⟩
    · exact .inl (raised _ (.inl rfl) h)
  | henc => exact .inr ⟨_, rfl, done _ h⟩
  | hdec => exact .inr ⟨_, rfl, done _ h⟩
  | renc => exact .inr ⟨_, rfl, done _ h⟩
  | rdec =>
    simp only [exec, execRdec, finish_eq, raiseError_eq] at h
    split at h
    · exact .inr ⟨_, ⟨_, rfl⟩, done _ h⟩
    · exact .inl (raised _ (.inr rfl) h)
  | penc => exact .inr ⟨_, rfl, done _ h⟩
  | pdec =>
    simp only [exec, execPdec, finish_eq, raiseError_eq] at h
    split at h
    · exact .inr ⟨_, ⟨_, rfl⟩, done _ h⟩
    · exact .inl (raised _ (.inr rfl) h)
  | gencH =>
    cases hk : s.status.kv with
    | true => exact .inr ⟨_, rfl, done _ ((genc_ready frameH s hk).symm.trans h)⟩
    | false => exact .inl (raised .construction (.inl rfl) ((genc_unready frameH s hk).symm.trans h))
  | gencR =>
    cases hk : s.status.kv with
    | true => exact .inr ⟨_, rfl, done _ ((genc_ready frameR s hk).symm.trans h)⟩
    | false => exact .inl (raised .construction (.inl rfl) ((genc_unready frameR s hk).symm.trans h))
  | gencP =>
    cases hk : s.status.kv with
    | true => exact .inr ⟨_, rfl, done _ ((genc_ready frameP s hk).symm.trans h)⟩
    | false => exact .inl (raised .construction (.inl rfl) ((genc_unready frameP s hk).symm.trans h))
  | gdecH => exact gdec_cases unframeH s t h
  | gdecR => exact gdec_cases unframeR s t h
  | gdecP => exact gdec_cases unframeP s t h

/-! ## What a success's own writes keep -/

/-- No command writes the operands, the staged stores, WDROP or the port (10_state.md R42, R44, R47, R51, R37). -/
theorem writes_keep_operands (i : Instr) (s u : State) (h : Writes i s u) :
    u.dinHi = s.dinHi ∧ u.dinLo = s.dinLo ∧ u.keyStg = s.keyStg ∧ u.schedStg = s.schedStg ∧ u.sboxStg = s.sboxStg ∧
    u.status.wdrop = s.status.wdrop ∧ u.port = s.port := by
  cases i with
  | rdec => obtain ⟨_, rfl⟩ := h; simp
  | pdec => obtain ⟨_, rfl⟩ := h; simp
  | gdecH => obtain ⟨_, rfl⟩ := h; simp
  | gdecR => obtain ⟨_, rfl⟩ := h; simp
  | gdecP => obtain ⟨_, rfl⟩ := h; simp
  | _ => subst h; simp

/-- The three commit commands. -/
def isCommit (i : Instr) : Bool := i == .rekey || i == .rekeyZ || i == .loadsched

/-- A command that is no commit leaves the active stores, KV and SO (41_configuration.md R210). -/
theorem writes_keep_stores (i : Instr) (s u : State) (hi : isCommit i = false) (h : Writes i s u) :
    u.keyAct = s.keyAct ∧ u.rkey = s.rkey ∧ u.sboxAct = s.sboxAct ∧ u.status.kv = s.status.kv ∧
    u.status.so = s.status.so := by
  cases i with
  | rekey => cases hi
  | rekeyZ => cases hi
  | loadsched => cases hi
  | rdec => obtain ⟨_, rfl⟩ := h; simp
  | pdec => obtain ⟨_, rfl⟩ := h; simp
  | gdecH => obtain ⟨_, rfl⟩ := h; simp
  | gdecR => obtain ⟨_, rfl⟩ := h; simp
  | gdecP => obtain ⟨_, rfl⟩ := h; simp
  | _ => subst h; simp

/-- A commit's writes, said once for the three (R201, R205, R208): a key, its schedule or the override, and the staged
S-box. -/
theorem writes_commit (i : Instr) (s u : State) (hi : isCommit i = true) (h : Writes i s u) :
    ∃ k r o v, u = commit k r o v ∧ v.sboxStg = s.sboxStg ∧
      ((i = .rekey ∧ o = false ∧ k = s.keyStg ∧ r = sched s.keyStg) ∨
        (i = .rekeyZ ∧ o = false ∧ k = Vector.replicate 8 0 ∧ r = Vector.replicate 32 0) ∨
        (i = .loadsched ∧ o = true ∧ k = Vector.replicate 8 0 ∧ r = s.schedStg)) := by
  cases i with
  | rekey => exact ⟨_, _, _, _, h, rfl, .inl ⟨rfl, rfl, rfl, rfl⟩⟩
  | rekeyZ => exact ⟨_, _, _, _, h, rfl, .inr (.inl ⟨rfl, rfl, rfl, rfl⟩)⟩
  | loadsched => exact ⟨_, _, _, _, h, rfl, .inr (.inr ⟨rfl, rfl, rfl, rfl⟩)⟩
  | _ => cases hi

end Sys2Proof.Machine
end

