-- ==== Sys2Proof/Laws/Datapath.lean ====
section
/-! SUPPORT. Laws/Datapath.lean: the small lemmas of the pure datapath functions: halves and symbols of a block, the schedule,
framing and deframing, and the bits of reassembled symbols. -/

namespace Sys2Proof.Machine

/-! ## Halves (40_cipher.md R160, R161) -/

theorem split64_join64 (h l : Word) : split64 (join64 h l) = (h, l) := by
  simp only [split64, join64, Prod.mk.injEq]
  constructor <;>
    (apply BitVec.eq_of_getLsbD_eq; intro i hi
     simp only [BitVec.getLsbD_extractLsb', BitVec.getLsbD_append, hi, decide_true, Bool.true_and])
  · rw [if_neg (by omega), show 32 + i - 32 = i by omega]
  · rw [if_pos (by omega), Nat.zero_add]

theorem join64_split64 (x : Block) : join64 (split64 x).1 (split64 x).2 = x := by
  apply BitVec.eq_of_getLsbD_eq
  intro i hi
  simp only [split64, join64, BitVec.getLsbD_append, BitVec.getLsbD_extractLsb']
  split
  · simp [*]
  · simp [show i - 32 < 32 by omega, show 32 + (i - 32) = i by omega]

/-- The halves of DIN are its two registers (10_state.md R42). -/
theorem split64_din (s : State) : split64 (din s) = (s.dinHi, s.dinLo) := split64_join64 s.dinHi s.dinLo

/-! ## The schedule (R167) -/

theorem sched_low (k : Vector Word 8) (r : Nat) (h : r < 24) : (sched k)[r] = k[r % 8] := by
  simp [sched, h]

theorem sched_high (k : Vector Word 8) (r : Nat) (h : 24 ≤ r) (h' : r < 32) : (sched k)[r] = k[31 - r] := by
  simp [sched, Nat.not_lt.mpr h]

/-- The all-zero key's schedule is all zero (41_configuration.md R205). -/
theorem sched_zero : sched (Vector.replicate 8 0) = Vector.replicate 32 0 := by decide +kernel

/-! ## Framing (43_composition.md R281, R286) -/

theorem frameH_get (ct : Block) (j : Nat) (h : j < 16) : (frameH ct)[j] = (hEnc (symbol 4 ct j)).setWidth 8 := by
  simp [frameH]

theorem frameR_get (ct : Block) (k : Nat) (h : k < 24) : (frameR ct)[k] = symbol 8 ct (k / 3) := by
  simp [frameR]

theorem frameP_get (ct : Block) (k : Nat) (h : k < 16) :
    (frameP ct)[k] = byteOfWord (pEnc (symbol 16 ct (k / 4))) (k % 4) := by
  simp [frameP]

theorem unframeH_get (p : Vector Byte 24) (j : Nat) (h : j < 16) :
    (unframeH p)[j] = some (hDec (p[j].extractLsb' 0 7)) := by
  simp [unframeH]

theorem unframeR_get (p : Vector Byte 24) (j : Nat) (h : j < 8) :
    (unframeR p)[j] = rDec p[3 * j] p[3 * j + 1] p[3 * j + 2] := by
  simp [unframeR]

theorem unframeP_get (p : Vector Byte 24) (j : Nat) (h : j < 4) :
    (unframeP p)[j] = pDec (wordOfBytes p[4 * j] p[4 * j + 1] p[4 * j + 2] p[4 * j + 3]) := by
  simp [unframeP]

/-- No slot of codec H fails (42_ecc.md R234). -/
theorem failMask_unframeH (p : Vector Byte 24) : failMask (unframeH p) = 0 := by
  rw [failMask_eq_zero (by omega)]
  intro j h
  rw [unframeH_get p j h]
  rfl

/-- The bytes of a word make the word. -/
theorem wordOfBytes_byteOfWord (w : Word) :
    wordOfBytes (byteOfWord w 0) (byteOfWord w 1) (byteOfWord w 2) (byteOfWord w 3) = w := by
  apply BitVec.eq_of_getLsbD_eq
  intro i hi
  simp only [wordOfBytes, byteOfWord, BitVec.getLsbD_append, BitVec.getLsbD_extractLsb']
  split
  · simp [*]
  · split
    · next h1 h2 => simp [h2, show 8 + (i - 8) = i by omega]
    · split
      · next h1 h2 h3 => simp [h3, show 16 + (i - 8 - 8) = i by omega]
      · next h1 h2 h3 =>
        simp [show i - 8 - 8 - 8 < 8 by omega, show 24 + (i - 8 - 8 - 8) = i by omega]

/-! ## Reassembly (R287) -/

/-- Shift one slot's symbol in below `acc`: one step of `joinSymbols`. -/
def shiftIn {w : Nat} (acc : Block) (r : Option (BitVec w)) : Block := (acc <<< w) ||| (r.getD 0).setWidth 64

theorem joinSymbols_eq {w n : Nat} (res : Vector (Option (BitVec w)) n) :
    joinSymbols res = res.toList.foldl shiftIn 0 := rfl

theorem shiftIn_getLsbD {w : Nat} (acc : Block) (r : Option (BitVec w)) (i : Nat) (hi : i < 64) :
    (shiftIn acc r).getLsbD i = if i < w then (r.getD 0).getLsbD i else acc.getLsbD (i - w) := by
  by_cases h : i < w
  · simp [shiftIn, hi, h]
  · have hz : (r.getD 0).getLsbD i = false := BitVec.getLsbD_of_ge _ _ (by omega)
    simp only [BitVec.ofNat_eq_ofNat] at hz
    simp [shiftIn, hi, h, hz, BitVec.getLsbD_eq_getElem (show i - w < 64 by omega)]

/-- Above the symbols of `l` stand the bits of `acc`. -/
theorem foldl_shiftIn_above {w : Nat} (l : List (Option (BitVec w))) (acc : Block) (k : Nat)
    (h : w * l.length + k < 64) : (l.foldl shiftIn acc).getLsbD (w * l.length + k) = acc.getLsbD k := by
  induction l generalizing acc k with
  | nil => simp
  | cons r l ih =>
    rw [List.length_cons, Nat.mul_succ] at h
    rw [List.foldl_cons, List.length_cons, Nat.mul_succ, Nat.add_assoc, ih _ _ (by omega),
      shiftIn_getLsbD _ _ _ (by omega), if_neg (by omega), Nat.add_sub_cancel_left]

/-- Bit b of the symbol q places from the end of `l`, after all of `l` is shifted in below `acc`. -/
theorem foldl_shiftIn_getLsbD {w : Nat} (l : List (Option (BitVec w))) (acc : Block) (q b : Nat) (hb : b < w)
    (hq : q < l.length) (hi : w * q + b < 64) :
    (l.foldl shiftIn acc).getLsbD (w * q + b) = (l[l.length - 1 - q].getD 0).getLsbD b := by
  induction l generalizing acc with
  | nil => simp at hq
  | cons r l ih =>
    rw [List.foldl_cons]
    rcases Nat.lt_or_ge q l.length with h | h
    · rw [ih (shiftIn acc r) h]
      have hidx : (r :: l).length - 1 - q = (l.length - 1 - q) + 1 := by rw [List.length_cons]; omega
      simp only [hidx, List.getElem_cons_succ]
    · have hql : q = l.length := by rw [List.length_cons] at hq; omega
      subst hql
      rw [foldl_shiftIn_above l _ _ hi, shiftIn_getLsbD _ _ _ (by omega), if_pos hb]
      simp

/-- A symbol of the reassembled block is the slot's symbol, where the symbols fill the block (R280, R287). -/
theorem symbol_joinSymbols {w n : Nat} (hn : w * n = 64) (res : Vector (Option (BitVec w)) n) (j : Nat) (hj : j < n) :
    symbol w (joinSymbols res) j = res[j].getD 0 := by
  apply BitVec.eq_of_getLsbD_eq
  intro b hb
  obtain ⟨q, hq⟩ : ∃ q, n = j + 1 + q := ⟨n - (j + 1), by omega⟩
  subst hq
  have hm : w * (j + 1) + w * q = 64 := by rw [← Nat.mul_add]; exact hn
  have hw : w ≤ w * (j + 1) := Nat.le_mul_of_pos_right w (by omega)
  rw [symbol, BitVec.getLsbD_extractLsb', show 64 - w * (j + 1) + b = w * q + b by omega, joinSymbols_eq,
    foldl_shiftIn_getLsbD _ _ q b hb (by simp) (by omega)]
  simp [hb]

/-- A block is determined by its symbols (R280, R287). -/
theorem block_ext {w n : Nat} (hw : 0 < w) (hn : w * n = 64) (x y : Block)
    (h : ∀ j < n, symbol w x j = symbol w y j) : x = y := by
  apply BitVec.eq_of_getLsbD_eq
  intro i hi
  have hq : i / w < n := Nat.div_lt_of_lt_mul (by omega)
  have hdm := Nat.div_add_mod i w
  have hb : i % w < w := Nat.mod_lt i hw
  generalize i / w = q at hq hdm
  generalize i % w = b at hb hdm
  obtain ⟨j, hj⟩ : ∃ j, n = j + 1 + q := ⟨n - 1 - q, by omega⟩
  subst hj
  have hm : w * (j + 1) + w * q = 64 := by rw [← Nat.mul_add]; exact hn
  have hs := congrArg (fun v => v.getLsbD b) (h j (by omega))
  simpa [symbol, hb, show 64 - w * (j + 1) + b = i by omega] using hs

end Sys2Proof.Machine
end

