-- ==== Sys2Proof/Laws/Decode.lean ====
section
/-! SUPPORT. Laws/Decode.lean: a command word and its fields are the same thing (30_encoding.md R131). -/

namespace Sys2Proof

/-- The fields of a word are read back from the word with those fields. -/
@[simp] theorem CmdFields.ofWord_toWord (f : CmdFields) : CmdFields.ofWord f.toWord = f := by
  obtain ⟨op, codec, z, rsv⟩ := f
  simp only [CmdFields.ofWord, CmdFields.toWord, CmdFields.mk.injEq]
  refine ⟨?_, ?_, ?_, ?_⟩ <;>
    (apply BitVec.eq_of_getLsbD_eq; intro i hi
     simp only [BitVec.getLsbD_extractLsb', BitVec.getLsbD_append, hi, decide_true, Bool.true_and])
  · rw [if_pos (by omega), Nat.zero_add]
  · rw [if_neg (by omega), if_pos (by omega), show 8 + i - 8 = i by omega]
  · rw [if_neg (by omega), if_neg (by omega), if_pos (by omega), show 10 + i - 8 - 2 = i by omega]
  · rw [if_neg (by omega), if_neg (by omega), if_neg (by omega), show 11 + i - 8 - 2 - 1 = i by omega]

/-- A word is the word with its fields. -/
@[simp] theorem CmdFields.toWord_ofWord (c : Word) : (CmdFields.ofWord c).toWord = c := by
  apply BitVec.eq_of_getLsbD_eq
  intro i hi
  simp only [CmdFields.ofWord, CmdFields.toWord, BitVec.getLsbD_append, BitVec.getLsbD_extractLsb']
  split
  · simp [*]
  · split
    · next h1 h2 => simp [show i - 8 < 2 by omega, show 8 + (i - 8) = i by omega]
    · split
      · next h1 h2 h3 => simp [show i - 8 - 2 < 1 by omega, show 10 + (i - 8 - 2) = i by omega]
      · next h1 h2 h3 => simp [show i - 8 - 2 - 1 < 21 by omega, show 11 + (i - 8 - 2 - 1) = i by omega]

end Sys2Proof
end

