-- ==== Sys2Proof/Laws/PerInstr.lean ====
section
/-! SUPPORT. Laws/PerInstr.lean: the statements made of every command as syntax, one lemma per constructor. -/

namespace Sys2Proof.Laws.FieldsLegal

/-- The fields of a command pass every check of a legal word (30_encoding.md R132 to R135), and its word has those
fields. -/
def Statement (i : Instr) : Prop := i.fields.wellFormed = true ∧ CmdFields.ofWord (encode i) = i.fields

theorem enc : Statement .enc := ⟨by decide, by decide⟩
theorem dec : Statement .dec := ⟨by decide, by decide⟩
theorem rekey : Statement .rekey := ⟨by decide, by decide⟩
theorem rekeyZ : Statement .rekeyZ := ⟨by decide, by decide⟩
theorem loadsched : Statement .loadsched := ⟨by decide, by decide⟩
theorem henc : Statement .henc := ⟨by decide, by decide⟩
theorem hdec : Statement .hdec := ⟨by decide, by decide⟩
theorem renc : Statement .renc := ⟨by decide, by decide⟩
theorem rdec : Statement .rdec := ⟨by decide, by decide⟩
theorem penc : Statement .penc := ⟨by decide, by decide⟩
theorem pdec : Statement .pdec := ⟨by decide, by decide⟩
theorem gencH : Statement .gencH := ⟨by decide, by decide⟩
theorem gencR : Statement .gencR := ⟨by decide, by decide⟩
theorem gencP : Statement .gencP := ⟨by decide, by decide⟩
theorem gdecH : Statement .gdecH := ⟨by decide, by decide⟩
theorem gdecR : Statement .gdecR := ⟨by decide, by decide⟩
theorem gdecP : Statement .gdecP := ⟨by decide, by decide⟩

end Sys2Proof.Laws.FieldsLegal
end

