-- ==== Sys2Proof/Laws/RegMap.lean ====
section
/-! SUPPORT. Laws/RegMap.lean: the register map is a bijection between registers and the aligned offsets that are not reserved
(10_state.md R31). -/

namespace Sys2Proof.Machine

/-- A register's offset selects it. -/
theorem regAt_offset (r : Reg) : regAt r.offset = some r := by
  cases r with
  | keyStg j => revert j; decide
  | schedStg r => revert r; decide
  | rkey r => revert r; decide
  | pbuf k => revert k; decide
  | keyAct j => revert j; decide
  | sboxStg e => revert e; decide +kernel
  | sboxAct e => revert e; decide +kernel
  | _ => decide

/-- A register's offset is aligned. -/
theorem offset_aligned (r : Reg) : alignedWord r.offset 4 = true := by
  cases r with
  | keyStg j => revert j; decide
  | schedStg r => revert r; decide
  | rkey r => revert r; decide
  | pbuf k => revert k; decide
  | keyAct j => revert j; decide
  | sboxStg e => revert e; decide +kernel
  | sboxAct e => revert e; decide +kernel
  | _ => decide

/-- An aligned offset that selects a register is its offset. -/
theorem offset_of_regAt (off : Offset) (r : Reg) (ha : off.toNat % 4 = 0) (h : regAt off = some r) :
    off = r.offset := by
  have all : ∀ off : Offset, (off.toNat % 4 != 0 || (regAt off).all fun r => off == r.offset) = true := by
    decide +kernel
  have := all off
  rw [h] at this
  simpa [ha] using this

/-- Reading at a register's offset reads the register. -/
theorem busRead_offset (r : Reg) (s : State) : busRead r.offset s = readReg r s := by
  simp [busRead, regAt_offset]

/-- Two registers have different offsets. -/
theorem offset_injective (r r' : Reg) (h : r.offset = r'.offset) : r = r' := by
  have := regAt_offset r
  rw [h, regAt_offset r'] at this
  exact (Option.some.inj this).symm

end Sys2Proof.Machine
end

