-- ==== Sys2Proof/Laws/Step.lean ====
section
/-! SUPPORT. Laws/Step.lean: what a step does for each next turn, and an inversion of the engine's turn. -/

namespace Sys2Proof.Machine

@[simp] theorem step_setTurns_nil (s : State) : step (setTurns [] s) = engineTurn (setTurns [] s) := rfl

@[simp] theorem step_setTurns_cons (t : Turn) (rest : List Turn) (s : State) :
    step (setTurns (t :: rest) s) = takeTurn t (setTurns rest s) := rfl

/-- With no turn left the engine moves. -/
theorem step_of_turns_nil (s : State) (h : s.port.turns = []) : step s = engineTurn s := by
  simp [step, h]

/-- The first turn is taken in the state without it. -/
theorem step_of_turns_cons (s : State) (t : Turn) (rest : List Turn) (h : s.port.turns = t :: rest) :
    step s = takeTurn t (setTurns rest s) := by
  simp [step, h]

@[simp] theorem takeTurn_engine (s : State) : takeTurn .engine s = engineTurn s := rfl

@[simp] theorem takeTurn_reset (s : State) : takeTurn .reset s = .next (assertReset s) := rfl

theorem readTurn_aligned (off : Offset) (width : Nat) (s : State) (h : alignedWord off width = true) :
    takeTurn (.read off width) s = .next (reply (busRead off s) s) := by
  simp [takeTurn, readTurn, h]

theorem writeTurn_aligned (off : Offset) (width : Nat) (v : Word) (s : State) (h : alignedWord off width = true) :
    takeTurn (.write off width v) s = .next (busWrite off v s) := by
  simp [takeTurn, writeTurn, h]

/-- The engine's turn: idle, a legal command, or an illegal word (20_memory.md R110). -/
theorem engineTurn_cases (s : State) :
    (s.pending = none ∧ engineTurn s = .next s) ∨
    (∃ w i, s.pending = some w ∧ decode w = .ok i ∧ engineTurn s = exec i s) ∨
    (∃ w r, s.pending = some w ∧ decode w = .error r ∧ engineTurn s = .next (completedErr 1 0 0 s)) := by
  cases hp : s.pending with
  | none => exact .inl ⟨rfl, by simp [engineTurn, hp]⟩
  | some w =>
    cases hd : decode w with
    | ok i => exact .inr (.inl ⟨w, i, rfl, hd, by simp [engineTurn, hp, hd]⟩)
    | error r => exact .inr (.inr ⟨w, r, rfl, hd, by simp [engineTurn, hp, hd, ErrCode.code]⟩)

/-- A turn that answers a next state: a read, a write, the engine's, or a reset. -/
theorem takeTurn_cases (t : Turn) (s u : State) (h : takeTurn t s = .next u) :
    (∃ off width, t = .read off width ∧ alignedWord off width = true ∧ u = reply (busRead off s) s) ∨
    (∃ off width v, t = .write off width v ∧ alignedWord off width = true ∧ u = busWrite off v s) ∨
    (t = .engine ∧ engineTurn s = .next u) ∨ (t = .reset ∧ u = assertReset s) := by
  cases t with
  | read off width =>
    simp only [takeTurn, readTurn] at h
    split at h
    · next ha => exact .inl ⟨off, width, rfl, ha, by injection h with h; exact h.symm⟩
    · cases h
  | write off width v =>
    simp only [takeTurn, writeTurn] at h
    split at h
    · next ha => exact .inr (.inl ⟨off, width, v, rfl, ha, by injection h with h; exact h.symm⟩)
    · cases h
  | engine => exact .inr (.inr (.inl ⟨rfl, h⟩))
  | reset => exact .inr (.inr (.inr ⟨rfl, by injection h with h; exact h.symm⟩))

/-- The host's placing of an instruction is what the next step completes. -/
theorem step_withFetchWord (s : State) (nbits w : Nat) :
    step (s.withFetchWord nbits w) = engineTurn (acceptCommand (commandWord nbits w) s) := rfl

/-! ## Runs -/

/-- A run of no step ends where it starts. -/
theorem core_run_zero (s : State) : core.run 0 s = .next s := rfl

/-- A run whose first step answers `t` goes on from `t`. -/
theorem core_run_succ (n : Nat) (s t : State) (h : step s = .next t) : core.run (n + 1) s = core.run n t := by
  have h' : core.step s = .next t := h
  have hrun := Host.Core.run.eq_2 core s n
  rw [h'] at hrun
  exact hrun

end Sys2Proof.Machine
end

