-- ==== Sys2Proof/Tests/Slice0.lean ====
section
/-! SUPPORT. Tests/Slice0.lean: tests with expected values from the spec (its encodings, its tables and the vectors of
95_test_vectors.md, named in each docstring), and for every obligation with hypotheses a state and operands that meet them. -/

namespace Sys2Proof.Tests

set_option Elab.async false

open Sys2Proof.Machine

/-! ## The states of the tests -/

/-- The §8.2 key (95_test_vectors.md, "K"). -/
def K : Vector Word 8 :=
  #v[0xffeeddcc, 0xbbaa9988, 0x77665544, 0x33221100, 0xf0f1f2f3, 0xf4f5f6f7, 0xf8f9fafb, 0xfcfdfeff]

/-- `s` with DIN = hi ++ lo. -/
def dinState (hi lo : Word) (s : State) : State := { s with dinHi := hi, dinLo := lo }

/-- K staged, written and committed as V4 says (KEY_WR = 0 afterwards). -/
def ready : State :=
  { State.reset with
    keyStg := K, keyAct := K, rkey := sched K, status := { Status.reset with kv := true } }

/-- K and the schedule r ↦ r staged and wholly written, nothing committed. -/
def staged : State :=
  { State.reset with
    keyStg := K, keyWr := 0xFF, schedStg := Vector.ofFn fun r => BitVec.ofNat 32 r.val, schedWr := 0xFFFFFFFF }

/-- The bytes of V50, V51 and V52, zero-filled. -/
def bytesH : List Byte :=
  [0x69, 0x7F, 0x0F, 0x7F, 0x25, 0x2A, 0x00, 0x16, 0x00, 0x33, 0x7F, 0x43, 0x33, 0x70, 0x69, 0x3C]
def bytesR : List Byte :=
  [0x1F, 0x1F, 0x1F, 0x7F, 0x7F, 0x7F, 0x52, 0x52, 0x52, 0x0E, 0x0E, 0x0E] ++
  [0x0B, 0x0B, 0x0B, 0xF3, 0xF3, 0xF3, 0xB8, 0xB8, 0xB8, 0x1C, 0x1C, 0x1C]
def bytesP : List Byte :=
  [0x00, 0x02, 0xF7, 0xFB, 0x00, 0x0B, 0x20, 0x78, 0x00, 0x00, 0xBF, 0x9B, 0x00, 0x17, 0x81, 0xE0]

/-- `ready` with the bytes of `b` in PBUF, byte k flipped by `x` for each (k, x) of `flips`. -/
def buffered (b : List Byte) (flips : List (Nat × Byte)) : State :=
  { ready with
    pbuf := Vector.ofFn fun k => flips.foldl (fun v f => if f.1 = k.val then v ^^^ f.2 else v) ((b[k.val]?).getD 0) }

/-- A value of the next state. -/
def value {α : Type} (f : State → α) : Result → Option α
  | .next t => some (f t)
  | .fault r => nomatch r
  | .refused _ => none

/-- DOUT after a step, and STATUS and FAILMASK. -/
def dout (r : Result) : Option (Word × Word) := value (fun t => (t.doutHi, t.doutLo)) r
def report (r : Result) : Option (Word × Word) := value (fun t => (busRead 0x004 t, busRead 0x008 t)) r

/-! ## WellFormed smoke: an ill-formed term for each check -/

/-- R132: OP 0x05 is reserved. -/
theorem test_wellFormed_refuses_reserved_op :
    (CmdFields.mk 0x05 0 0 0).opDefined = false ∧ (CmdFields.mk 0x05 0 0 0).wellFormed = false := by decide

/-- R133: CODEC 3 in a composed command, and CODEC 1 in ENC. -/
theorem test_wellFormed_refuses_codec :
    (CmdFields.mk 0x20 3 0 0).codecLegal = false ∧ (CmdFields.mk 0x20 3 0 0).wellFormed = false ∧
    (CmdFields.mk 0x01 1 0 0).codecLegal = false ∧ (CmdFields.mk 0x01 1 0 0).wellFormed = false := by decide

/-- R134: Z in GENC. -/
theorem test_wellFormed_refuses_z :
    (CmdFields.mk 0x20 0 1 0).zLegal = false ∧ (CmdFields.mk 0x20 0 1 0).wellFormed = false := by decide

/-- R135: a reserved bit. -/
theorem test_wellFormed_refuses_reserved_bits :
    (CmdFields.mk 0x03 0 0 1).rsvClear = false ∧ (CmdFields.mk 0x03 0 0 1).wellFormed = false := by decide

/-- The fields of every command pass. -/
theorem test_wellFormed_accepts_commands : ∀ i : Instr, i.fields.wellFormed = true := by
  intro i; cases i <;> decide

/-! ## Decode: every constructor's word, bit by bit from R131 to R136 (RSV 21 bits, Z, CODEC, OP) -/

theorem test_decode_enc : decode 0b000000000000000000000_0_00_00000001#32 = .ok .enc := by decide
theorem test_decode_dec : decode 0b000000000000000000000_0_00_00000010#32 = .ok .dec := by decide
theorem test_decode_rekey : decode 0b000000000000000000000_0_00_00000011#32 = .ok .rekey := by decide
theorem test_decode_rekeyZ : decode 0b000000000000000000000_1_00_00000011#32 = .ok .rekeyZ := by decide
theorem test_decode_loadsched : decode 0b000000000000000000000_0_00_00000100#32 = .ok .loadsched := by decide
theorem test_decode_henc : decode 0b000000000000000000000_0_00_00010000#32 = .ok .henc := by decide
theorem test_decode_hdec : decode 0b000000000000000000000_0_00_00010001#32 = .ok .hdec := by decide
theorem test_decode_renc : decode 0b000000000000000000000_0_00_00010010#32 = .ok .renc := by decide
theorem test_decode_rdec : decode 0b000000000000000000000_0_00_00010011#32 = .ok .rdec := by decide
theorem test_decode_penc : decode 0b000000000000000000000_0_00_00010100#32 = .ok .penc := by decide
theorem test_decode_pdec : decode 0b000000000000000000000_0_00_00010101#32 = .ok .pdec := by decide
theorem test_decode_gencH : decode 0b000000000000000000000_0_00_00100000#32 = .ok .gencH := by decide
theorem test_decode_gencR : decode 0b000000000000000000000_0_01_00100000#32 = .ok .gencR := by decide
theorem test_decode_gencP : decode 0b000000000000000000000_0_10_00100000#32 = .ok .gencP := by decide
theorem test_decode_gdecH : decode 0b000000000000000000000_0_00_00100001#32 = .ok .gdecH := by decide
theorem test_decode_gdecR : decode 0b000000000000000000000_0_01_00100001#32 = .ok .gdecR := by decide
theorem test_decode_gdecP : decode 0b000000000000000000000_0_10_00100001#32 = .ok .gdecP := by decide

/-- V70: the illegal words, each with its reason. -/
theorem test_decode_illegal :
    [0x00000000, 0x00000005, 0x000000FF, 0x00000320, 0x00000101, 0x00000401, 0x00000420, 0x00000803, 0x80000001].map
      decode = ([.reservedOp, .reservedOp, .reservedOp, .reservedCodec, .codecNotZero, .zNotZero, .zNotZero,
        .reservedBits, .reservedBits] : List DecodeError).map .error := by decide

/-- The words of opcode_table.json as numbers (REKEY.Z, GENC.R), one that is no command, and one wider than a word. -/
theorem test_decodeTableWord :
    decodeTableWord 32 1027 = some .rekeyZ ∧ decodeTableWord 32 288 = some .gencR ∧ decodeTableWord 32 800 = none ∧
    decodeTableWord 64 (2 ^ 32 + 1) = none := by decide

/-! ## One step of each command -/

/-- V1, V9. -/
theorem test_enc : dout (exec .enc (dinState 0xfedcba98 0x76543210 ready)) = some (0x4ee901e5, 0xc2d8ca3d) := by
  decide +kernel
theorem test_enc_ones : dout (exec .enc (dinState 0xffffffff 0xffffffff ready)) = some (0x8c606062, 0x2d2f1e2d) := by
  decide +kernel

/-- V2, V13. -/
theorem test_dec : dout (exec .dec (dinState 0x4ee901e5 0xc2d8ca3d ready)) = some (0xfedcba98, 0x76543210) := by
  decide +kernel
theorem test_dec_before_commit : report (exec .dec State.reset) = some (0x20, 0) := by decide +kernel

/-- V3: the first and the last round of the trace. -/
theorem test_rounds_trace :
    ground defaultSbox K[0] (0xfedcba98, 0x76543210) = (0x76543210, 0x28da3b14) ∧
    ground defaultSbox (sched K)[31] (0x239a4577, 0xc2d8ca3d) = (0xc2d8ca3d, 0x4ee901e5) := by decide +kernel

/-- V10, V11, V12. -/
theorem test_tsub_gfun :
    tsub defaultSbox 0xfdb97531 = 0x2a196f34 ∧ tsub defaultSbox 0 = 0x1857cb6c ∧
    gfun defaultSbox 0x87654321 0xfedcba98 = 0xfdcbc20c ∧ gfun defaultSbox 0xffffffff 1 = 0xbe5b60c2 := by decide +kernel

/-- V4: RKEY(0), RKEY(7), RKEY(23), RKEY(24), RKEY(31), KEY_WR and STATUS. -/
theorem test_rekey :
    value (fun t => ([t.rkey[0], t.rkey[7], t.rkey[23], t.rkey[24], t.rkey[31]], t.keyWr, busRead 0x004 t))
      (exec .rekey staged) =
      some ([0xffeeddcc, 0xfcfdfeff, 0xfcfdfeff, 0xfcfdfeff, 0xffeeddcc], 0x00, 0x2) := by decide +kernel

/-- V14: KEY_WR = 7F. -/
theorem test_rekey_incomplete :
    value (fun t => (busRead 0x004 t, t.keyWr)) (exec .rekey { staged with keyWr := 0x7F }) = some (0x20, 0x7F) := by
  decide +kernel

/-- V5 and V16: REKEY.Z then ENC of 0; KEY_WR stays 04. -/
theorem test_rekeyZ :
    value (fun t => (dout (exec .enc (dinState 0 0 t)), t.keyWr)) (exec .rekeyZ { State.reset with keyWr := 0x04 }) =
      some (some (0x78b6bd4a, 0x81726659), 0x04) := by decide +kernel

/-- V7: LOADSCHED then ENC; STATUS = 00000006, SCHED_WR = 0. -/
theorem test_loadsched :
    value (fun t => (dout (exec .enc (dinState 0x01234567 0x89abcdef t)), busRead 0x004 t, t.schedWr, t.keyAct[0]))
      (exec .loadsched staged) = some (some (0x44515bb8, 0x0ad1469e), 0x6, 0, 0) := by decide +kernel

/-- V17. -/
theorem test_loadsched_incomplete :
    report (exec .loadsched { staged with schedWr := 0x7FFFFFFF }) = some (0x20, 0) := by decide +kernel

/-- V20, V21, V23. -/
theorem test_henc : dout (exec .henc (dinState 7 0xFFFFFFF5 State.reset)) = some (0, 0x25) := by decide +kernel
theorem test_hdec : dout (exec .hdec (dinState 0 0x0000001A State.reset)) = some (0, 0xA) := by decide +kernel
theorem test_hdec_ignores_bit7 : dout (exec .hdec (dinState 0 0xFFFFFF5A State.reset)) = some (0, 0xA) := by
  decide +kernel

/-- V30, V31. -/
theorem test_renc : dout (exec .renc (dinState 0 0x12345678 State.reset)) = some (0, 0x00787878) := by decide +kernel
theorem test_rdec : dout (exec .rdec (dinState 0 0x00112222 State.reset)) = some (0, 0x22) := by decide +kernel
theorem test_rdec_fails : report (exec .rdec (dinState 0 0x00000102 State.reset)) = some (0x30, 0) := by
  decide +kernel

/-- V40, V41, V42. -/
theorem test_penc : dout (exec .penc (dinState 0 0xABCD State.reset)) = some (0, 0x0015BC63) := by decide +kernel
theorem test_pdec : dout (exec .pdec (dinState 0 0x800222A0 State.reset)) = some (0, 0x1234) := by decide +kernel
theorem test_pdec_fails : report (exec .pdec (dinState 0 0x000222A1 ready)) = some (0x32, 0) := by decide +kernel

/-- V50, V51, V52: PBUF after GENC.c, the bytes above the written ones as before. -/
theorem test_gencH : value (fun t => t.pbuf.toList)
    (exec .gencH (dinState 0x99aabbcc 0xddeeff00 (buffered bytesR []))) = some (bytesH ++ bytesR.drop 16) := by
  decide +kernel
theorem test_gencR : value (fun t => t.pbuf.toList) (exec .gencR (dinState 0x99aabbcc 0xddeeff00 ready)) =
    some bytesR := by decide +kernel
theorem test_gencP : value (fun t => t.pbuf.toList) (exec .gencP (dinState 0x99aabbcc 0xddeeff00 ready)) =
    some (bytesP ++ List.replicate 8 0) := by decide +kernel

/-- V53 (a flipped bit in bytes 0, 1 and 15, bit 7 of byte 2), V58. -/
theorem test_gdecH : dout (exec .gdecH (buffered bytesH [(0, 0x01), (1, 0x02), (2, 0x80), (15, 0x40)])) =
    some (0x99aabbcc, 0xddeeff00) := by decide +kernel
theorem test_gdecH_miscorrects : dout (exec .gdecH (buffered bytesH [(0, 0x03)])) = some (0x8ff89ebc, 0x5faecfcf) := by
  decide +kernel

/-- V54, V55. -/
theorem test_gdecR : dout (exec .gdecR (buffered bytesR [(3, 0xFF)])) = some (0x99aabbcc, 0xddeeff00) := by
  decide +kernel
theorem test_gdecR_fails : report (exec .gdecR (buffered bytesR [(0, 1), (1, 2), (21, 1), (22, 2)])) =
    some (0x42, 0x81) := by decide +kernel

/-- V56. -/
theorem test_gdecP : dout (exec .gdecP (buffered bytesP [(5, 0x10)])) = some (0x0689eab7, 0xd51f164b) := by
  decide +kernel
theorem test_gdecP_fails : report (exec .gdecP (buffered bytesP [(7, 1), (15, 1)])) = some (0x142, 0xA) := by
  decide +kernel

/-! ## Steps -/

/-- The next step after reset runs the placed command (REKEY.Z: KV = 1), and V70 from reset. -/
theorem test_step_runs_the_placed_command :
    value (fun t => busRead 0x004 t) (step (State.reset.withFetchWord 32 0x403)) = some 0x2 ∧
    value (fun t => busRead 0x004 t) (step (State.reset.withFetchWord 32 0x320)) = some 0x10 := by decide +kernel

/-- V73: writes while busy. -/
theorem test_write_while_busy :
    value (fun t => (t.pending, t.dinLo, t.status.wdrop))
      (step (setTurns [.write 0x014 4 1] (acceptCommand 1 ready))) = some (some 1, 0, true) ∧
    value (fun t => (t.pending, t.status.wdrop))
      (step (setTurns [.write 0x000 4 2] (acceptCommand 1 ready))) = some (some 1, true) := by decide +kernel

/-- V72: SBOX_STG(0), PBUF(5), KEY_WR, an ignored write to RKEY(0), and STATUS with WDROP = 1. -/
theorem test_register_writes :
    busRead 0x200 (busWrite 0x200 0xFFFFFFF3 ready) = 0x3 ∧ busRead 0x194 (busWrite 0x194 0x1234 ready) = 0x34 ∧
    busRead 0x040 (busWrite 0x024 0 State.reset) = 0x2 ∧ busRead 0x100 (busWrite 0x100 0x12345678 ready) = 0xffeeddcc ∧
    busRead 0x004 (busWrite 0x004 0xFFFFFFFF (dropWrite ready)) = 0x2 ∧
    busRead 0x004 (busWrite 0x004 0xFFFFFFF7 (dropWrite ready)) = 0xA := by decide +kernel

/-- V72: offsets that read 0, among them the ends of the reserved ranges; the last register of each range beside them. -/
theorem test_reserved_offsets_read_zero :
    ([0x000, 0x00C, 0x048, 0x07C, 0x600, 0xFFC] : List Offset).map (busRead · ready) = [0, 0, 0, 0, 0, 0] ∧
    busRead 0x0FC staged = 31 ∧ busRead 0x17C ready = 0xffeeddcc ∧ busRead 0x1FC ready = 0xfcfdfeff ∧
    busRead 0x3FC ready = 2 ∧ busRead 0x5FC ready = 2 := by decide +kernel

/-- V74: SBOX_ACT(0), (15), (16) and (127) after reset. -/
theorem test_reset_sbox :
    [defaultSbox[0], defaultSbox[15], defaultSbox[16], defaultSbox[127]] = ([0xC, 0x1, 0x6, 0x2] : List Nibble) := by
  decide +kernel

/-- R109's example: B = ff ee dd cc … gives the §8.2 key. -/
theorem test_key_bytes :
    (wordsOfBytes (n := 8) #v[0xff, 0xee, 0xdd, 0xcc, 0xbb, 0xaa, 0x99, 0x88, 0x77, 0x66, 0x55, 0x44, 0x33, 0x22, 0x11,
      0x00, 0xf0, 0xf1, 0xf2, 0xf3, 0xf4, 0xf5, 0xf6, 0xf7, 0xf8, 0xf9, 0xfa, 0xfb, 0xfc, 0xfd, 0xfe, 0xff]).toList =
      K.toList := by decide +kernel

/-- R142: EXEC HENC with one poll before the completion, on the bus (P1's column). -/
theorem test_exec_expansion :
    execCmd .henc 1 = [.write 0x000 4 0x10, .read 0x004 4, .engine, .read 0x004 4] := by decide

/-! ## Witnesses: a state and operands that meet the hypotheses of each obligation -/

/-- A next state that is not written out. -/
theorem next_of_value {α : Type} (f : State → α) (r : Result) (h : (value f r).isSome = true) : ∃ t, r = .next t := by
  cases r with
  | next t => exact ⟨t, rfl⟩
  | fault q => cases q
  | refused q => simp [value] at h

/-- The halves after each round under the round keys `rk`, as R168 computes them. -/
def halves (rk : Nat → Word) (s : State) : Nat → Word × Word
  | 0 => (s.dinHi, s.dinLo)
  | r + 1 => ((halves rk s r).2, rotl32 (tsub s.sboxAct (rk r + (halves rk s r).2)) 11 ^^^ (halves rk s r).1)

theorem test_witness_IllegalWordCompletesWithIllegalAlone :
    (placeCommand 0x320 State.reset).pending = some 0x320 ∧ EngineMoves (placeCommand 0x320 State.reset) ∧
    EngineMoves (acceptCommand 0 ready) ∧ (acceptCommand 0 ready).pending = some 0 :=
  ⟨rfl, .inr ⟨_, rfl⟩, .inl rfl, rfl⟩

theorem test_witness_StepCompletesThePendingCommand :
    (EngineMoves (placeCommand 0x403 State.reset) ∧ (placeCommand 0x403 State.reset).pending = some 0x403 ∧
      decode 0x403 = .ok .rekeyZ) ∧
    (EngineMoves State.reset ∧ State.reset.pending = none) :=
  ⟨⟨.inr ⟨_, rfl⟩, rfl, by decide⟩, .inl rfl, rfl⟩

theorem test_witness_ReadsReturnCurrentValuesAndChangeNothing :
    (0xFFC : Offset).toNat % 4 = 0 ∧ 0x048 ≤ (0x048 : Offset).toNat ∧ (0x07C : Offset).toNat ≤ 0x07C ∧
    0x600 ≤ (0x600 : Offset).toNat ∧ 0x600 ≤ (0xFFC : Offset).toNat ∧
    BitVec.ofNat 12 (0x020 + 4 * 7) = (0x03C : Offset) ∧ BitVec.ofNat 12 (0x080 + 4 * 31) = (0x0FC : Offset) ∧
    BitVec.ofNat 12 (0x180 + 4 * 23) = (0x1DC : Offset) ∧ BitVec.ofNat 12 (0x400 + 4 * 127) = (0x5FC : Offset) := by
  decide

theorem test_witness_NonWordAccessIsRefusedByName :
    ((2 : Nat) ≠ 4 ∨ (0x010 : Offset).toNat % 4 ≠ 0) ∧ ((4 : Nat) ≠ 4 ∨ (0x013 : Offset).toNat % 4 ≠ 0) := by decide

theorem test_witness_WriteWhileBusyIsDropped :
    (acceptCommand 1 ready).status.busy = true ∧ (0x000 : Offset).toNat % 4 = 0 ∧ (0xFFC : Offset).toNat % 4 = 0 := by
  decide

theorem test_witness_WriteToCmdIsAcceptedWhenIdle :
    State.reset.status.busy = false ∧ (acceptCommand 1 State.reset).status.busy = true := by decide

theorem test_witness_WdropIsSetByDropsAndClearedByWritingOne :
    ready.status.busy = false ∧ (acceptCommand 1 ready).status.busy = true ∧
    ∃ t, exec .henc State.reset = .next t := ⟨rfl, rfl, _, rfl⟩

theorem test_witness_StagedKeyAndScheduleWritesAreRecorded :
    State.reset.status.busy = false ∧ 7 < 8 ∧ 31 < 32 ∧ ∃ t, exec .rekeyZ State.reset = .next t :=
  ⟨rfl, by decide, by decide, _, rfl⟩

theorem test_witness_DinPbufAndSboxWritesKeepTheLowBits :
    State.reset.status.busy = false ∧ 23 < 24 ∧ 127 < 128 := by decide

theorem test_witness_WriteToReadOnlyOrReservedIsIgnored :
    ready.status.busy = false ∧
    ∀ off ∈ ([0x008, 0x044, 0x048, 0x07C, 0x100, 0x17C, 0x1E0, 0x1FC, 0x400, 0x5FC, 0x600, 0xFFC] : List Offset),
      off.toNat % 4 = 0 ∧
      (off ∈ ([0x008, 0x00C, 0x018, 0x01C, 0x040, 0x044] : List Offset) ∨ (0x048 ≤ off.toNat ∧ off.toNat ≤ 0x07C) ∨
        (0x100 ≤ off.toNat ∧ off.toNat ≤ 0x17C) ∨ (0x1E0 ≤ off.toNat ∧ off.toNat ≤ 0x1FC) ∨ 0x400 ≤ off.toNat) := by
  refine ⟨rfl, ?_⟩
  simp

/-- WDROP lost by clearing it, and by a reset. -/
theorem test_witness_WdropIsLostOnlyByClearingOrReset :
    (setTurns [.write 0x004 4 8] (dropWrite ready)).status.wdrop = true ∧
    value (fun t => t.status.wdrop) (step (setTurns [.write 0x004 4 8] (dropWrite ready))) = some false ∧
    value (fun t => t.status.wdrop) (step (setTurns [.reset] (dropWrite ready))) = some false := by decide +kernel

theorem test_witness_WindowStandsAtAnAlignedBase :
    Config.cfeBase + 4096 < Config.cfeBase ∨ Config.cfeBase + 4096 ≤ Config.cfeBase + 4096 := .inr (Nat.le_refl _)

theorem test_witness_BytesArePackedBigEndian :
    (wordsOfBytes (n := 8) (Vector.ofFn fun k => BitVec.ofNat 8 k.val))[7].extractLsb' 0 8 = 31#8 ∧
    (blockOfBytes (Vector.ofFn fun k => BitVec.ofNat 8 k.val)).extractLsb' 0 8 = 7#8 := by decide +kernel

/-- EXEC REKEY.Z with no poll and with two before the completion. -/
theorem test_witness_ExecPollsUntilTheCommandCompletes :
    State.reset.status.busy = false ∧
    value (fun t => t.port.replies) (core.run 3 (withProgram (execCmd .rekeyZ 0) State.reset)) = some [0x2] ∧
    value (fun t => t.port.replies) (core.run 5 (withProgram (execCmd .rekeyZ 2) State.reset)) = some [0x2, 0x1, 0x1] := by
  decide +kernel

theorem test_witness_TsubSubstitutesLaneByLane :
    (tsub defaultSbox 0xfdb97531).extractLsb' 28 4 = defaultSbox[16 * 7 + 15] := by decide +kernel

theorem test_witness_EncRunsTheRoundsAscending :
    halves (fun r => (ready.rkey[r]?).getD 0) ready 0 = (ready.dinHi, ready.dinLo) ∧
    (∀ r (h : r < 32), halves (fun r => (ready.rkey[r]?).getD 0) ready (r + 1) =
      ((halves (fun r => (ready.rkey[r]?).getD 0) ready r).2,
        rotl32 (tsub ready.sboxAct (ready.rkey[r] + (halves (fun r => (ready.rkey[r]?).getD 0) ready r).2)) 11 ^^^
          (halves (fun r => (ready.rkey[r]?).getD 0) ready r).1)) ∧
    ready.status.kv = true ∧ State.reset.status.kv = false := by
  refine ⟨rfl, fun r h => ?_, rfl, rfl⟩
  have e : (ready.rkey[r]?).getD 0 = ready.rkey[r] := by rw [Vector.getElem?_eq_getElem h]; rfl
  rw [halves, e]

theorem test_witness_DecRunsTheRoundsDescending :
    halves (fun r => (ready.rkey[31 - r]?).getD 0) ready 0 = (ready.dinHi, ready.dinLo) ∧
    (∀ r (h : r < 32), halves (fun r => (ready.rkey[31 - r]?).getD 0) ready (r + 1) =
      ((halves (fun r => (ready.rkey[31 - r]?).getD 0) ready r).2,
        rotl32 (tsub ready.sboxAct (ready.rkey[31 - r] + (halves (fun r => (ready.rkey[31 - r]?).getD 0) ready r).2)) 11 ^^^
          (halves (fun r => (ready.rkey[31 - r]?).getD 0) ready r).1)) ∧
    ready.status.kv = true ∧ State.reset.status.kv = false := by
  refine ⟨rfl, fun r h => ?_, rfl, rfl⟩
  have e : (ready.rkey[31 - r]?).getD 0 = ready.rkey[31 - r] := by rw [Vector.getElem?_eq_getElem (by omega)]; rfl
  rw [halves, e]

theorem test_witness_KnownAnswerUnderTheSourceKey :
    ready.status.kv = true ∧ ready.sboxAct = defaultSbox ∧ ready.rkey = sched K := ⟨rfl, rfl, rfl⟩

/-- The second state is the one after ENC, with DIN = DOUT. -/
theorem test_witness_DecOfAnEncResultReturnsTheBlock :
    ready.status.kv = true ∧
    value (fun t => decide ((dinState t.doutHi t.doutLo t).status.kv = true ∧
      (dinState t.doutHi t.doutLo t).rkey = t.rkey ∧ (dinState t.doutHi t.doutLo t).sboxAct = t.sboxAct))
      (exec .enc ready) = some true := by decide +kernel

theorem test_witness_RekeyCommitsKeyScheduleAndSbox : staged.keyWr = 0xFF ∧ State.reset.keyWr ≠ 0xFF := by
  decide +kernel

theorem test_witness_LoadschedCommitsTheOverride :
    staged.schedWr = 0xFFFFFFFF ∧ State.reset.schedWr ≠ 0xFFFFFFFF := by decide +kernel

/-- Two CFEs with one staged key, which differ in DIN. -/
theorem test_witness_RekeyIsDeterminedByKeyAndSbox :
    staged.keyWr = 0xFF ∧ (dinState 1 2 staged).keyWr = 0xFF ∧ staged.keyStg = (dinState 1 2 staged).keyStg ∧
    staged.sboxStg = (dinState 1 2 staged).sboxStg := by decide +kernel

theorem test_witness_ConstructionIsRaisedInThreeCases :
    State.reset.status.kv = false ∧ State.reset.keyWr ≠ 0xFF ∧ State.reset.schedWr ≠ 0xFFFFFFFF ∧
    value (fun t => t.status.err) (exec .gdecP State.reset) = some 2 := by decide +kernel

theorem test_witness_HencGivesTheCodewordOfTheTable :
    15 = (dinState 0 0xF State.reset).dinLo.toNat % 16 ∧ 0 = State.reset.dinLo.toNat % 16 := by decide

/-- Each clause: b0 = b1, b0 = b2, b1 = b2, all different. -/
theorem test_witness_RdecTakesTheMajorityByte :
    (0x5A : Byte) = (0x005A5A00 : Word).extractLsb' 16 8 ∧ (0x5A : Byte) = (0x005A5A00 : Word).extractLsb' 8 8 ∧
    (0x5A : Byte) = (0x005A005A : Word).extractLsb' 16 8 ∧ (0x5A : Byte) = (0x005A005A : Word).extractLsb' 0 8 ∧
    (0x5A : Byte) = (0x00005A5A : Word).extractLsb' 8 8 ∧ (0x5A : Byte) = (0x00005A5A : Word).extractLsb' 0 8 ∧
    (0x00 : Byte) = (0x00000102 : Word).extractLsb' 16 8 ∧ (0x01 : Byte) = (0x00000102 : Word).extractLsb' 8 8 ∧
    (0x02 : Byte) = (0x00000102 : Word).extractLsb' 0 8 ∧ (dinState 0 0x00000102 State.reset).dinLo = 0x00000102 := by
  decide

theorem test_witness_RepetitionVoteProperties :
    (1 : Byte) ≠ 2 ∧ (1 : Byte) ≠ 0 ∧ (2 : Byte) ≠ 0 := by decide

/-- One prefix parity is 1 (V41, 000222A1), and all are 0 (000222A0). -/
theorem test_witness_PdecChecksTheFivePrefixParities :
    (∃ i < 5, parity ((0x000222A1 : Word).extractLsb' 0 (2 ^ i + 1)) = true) ∧
    (∀ i < 5, parity ((0x000222A0 : Word).extractLsb' 0 (2 ^ i + 1)) = false) := by decide +kernel

/-- V42 at the ends of each range of positions, and a word in bits 31:21. -/
theorem test_witness_ParityDetectsFlipsUpToPositionSixteen :
    [0, 1, 2, 3, 4, 5, 8, 9, 16].map (fun p => pSyndrome (0x000222A0 ^^^ (1#32 <<< p))) =
      [0x1F, 0x1F, 0x1E, 0x1C, 0x1C, 0x18, 0x18, 0x10, 0x10] ∧
    pDec (0x000222A0 ^^^ (1#32 <<< 17)) = some 0x0234 ∧ pDec (0x000222A0 ^^^ (1#32 <<< 20)) = some 0x9234 ∧
    pDec (0x000222A3) = some 0x1235 ∧ (0x80200000 : Word).extractLsb' 0 21 = 0 := by decide +kernel

/-- GENC.c: the ciphertext of V50, and both values of KV. -/
theorem test_witness_Genc :
    0x1f7f520e0bf3b81c = encrypt ready.sboxAct ready.rkey
      ((dinState 0x99aabbcc 0xddeeff00 ready).dinHi ++ (dinState 0x99aabbcc 0xddeeff00 ready).dinLo) ∧
    ready.status.kv = true ∧ State.reset.status.kv = false := by decide +kernel

theorem test_witness_GdecHDecodesAndDecrypts :
    (buffered bytesH []).status.kv = true ∧ State.reset.status.kv = false := by decide

/-- All eight groups decode; group 0 and group 7 are the lowest that fail. -/
theorem test_witness_GdecRDecodesOrReportsEveryFailingGroup :
    (∀ j (h : j < 8), rDec (buffered bytesR []).pbuf[3 * j] (buffered bytesR []).pbuf[3 * j + 1]
      (buffered bytesR []).pbuf[3 * j + 2] =
        some (#v[0x1F, 0x7F, 0x52, 0x0E, 0x0B, 0xF3, 0xB8, 0x1C] : Vector Byte 8)[j]) ∧
    rDec (buffered bytesR [(0, 1), (1, 2)]).pbuf[0] (buffered bytesR [(0, 1), (1, 2)]).pbuf[1]
      (buffered bytesR [(0, 1), (1, 2)]).pbuf[2] = none ∧
    rDec (buffered bytesR [(21, 1), (22, 2)]).pbuf[21] (buffered bytesR [(21, 1), (22, 2)]).pbuf[22]
      (buffered bytesR [(21, 1), (22, 2)]).pbuf[23] = none ∧
    (∀ j (h : j < 7), rDec (buffered bytesR [(21, 1), (22, 2)]).pbuf[3 * j]
      (buffered bytesR [(21, 1), (22, 2)]).pbuf[3 * j + 1] (buffered bytesR [(21, 1), (22, 2)]).pbuf[3 * j + 2] ≠ none) := by
  decide +kernel

/-- All four codewords decode; codeword 0 and codeword 3 are the lowest that fail. -/
theorem test_witness_GdecPDecodesOrReportsEveryFailingWord :
    (∀ j (h : j < 4), (#v[0x0002F7FB, 0x000B2078, 0x0000BF9B, 0x001781E0] : Vector Word 4)[j] =
      (buffered bytesP []).pbuf[4 * j] ++ (buffered bytesP []).pbuf[4 * j + 1] ++ (buffered bytesP []).pbuf[4 * j + 2]
        ++ (buffered bytesP []).pbuf[4 * j + 3]) ∧
    (∀ j (h : j < 4), pDec (#v[0x0002F7FB, 0x000B2078, 0x0000BF9B, 0x001781E0] : Vector Word 4)[j] =
      some (#v[0x1f7f, 0x520e, 0x0bf3, 0xb81c] : Vector Half 4)[j]) ∧
    pDec 0x0002F7FA = none ∧ pDec 0x001781E1 = none := by decide +kernel

/-- The second state is the one after GENC.c, for each codec. -/
theorem test_witness_ComposedRoundTripRecoversTheBlock :
    ready.status.kv = true ∧
    ∀ i ∈ ([.gencH, .gencR, .gencP] : List Instr),
      value (fun t => (t.status.kv, decide (t.rkey = ready.rkey), decide (t.sboxAct = ready.sboxAct))) (exec i ready) =
        some (true, true, true) := by decide +kernel

/-- GENC.R of p gives the V51 buffer; one byte of every group corrupted, and the whole of group 7 flipped (V57's shape). -/
theorem test_witness_RepetitionRecoversOneByteInEveryGroup :
    value (fun t => decide (t.pbuf = (buffered bytesR []).pbuf ∧ t.rkey = ready.rkey ∧ t.sboxAct = ready.sboxAct))
      (exec .gencR (dinState 0x99aabbcc 0xddeeff00 ready)) = some true ∧
    (∀ j (h : j < 8),
      (buffered bytesR [(0, 0xFF), (4, 1), (23, 0xFF)]).pbuf[3 * j + 1] = (buffered bytesR []).pbuf[3 * j + 1] ∧
        (buffered bytesR [(0, 0xFF), (4, 1), (23, 0xFF)]).pbuf[3 * j + 2] = (buffered bytesR []).pbuf[3 * j + 2] ∨
      (buffered bytesR [(0, 0xFF), (4, 1), (23, 0xFF)]).pbuf[3 * j] = (buffered bytesR []).pbuf[3 * j] ∧
        (buffered bytesR [(0, 0xFF), (4, 1), (23, 0xFF)]).pbuf[3 * j + 2] = (buffered bytesR []).pbuf[3 * j + 2] ∨
      (buffered bytesR [(0, 0xFF), (4, 1), (23, 0xFF)]).pbuf[3 * j] = (buffered bytesR []).pbuf[3 * j] ∧
        (buffered bytesR [(0, 0xFF), (4, 1), (23, 0xFF)]).pbuf[3 * j + 1] = (buffered bytesR []).pbuf[3 * j + 1]) ∧
    (∀ j (h : j < 24), (buffered bytesR [(21, 0xFF), (22, 0xFF), (23, 0xFF)]).pbuf[j] =
      if j / 3 = 7 then (buffered bytesR []).pbuf[j] ^^^ 0xFF else (buffered bytesR []).pbuf[j]) := by decide +kernel

/-- Two buffers that agree in one slot alone: group 7 of R, codeword 3 of P; each composed decode answers a next state. -/
theorem test_witness_SlotFailureDependsOnItsOwnBytes :
    (∀ k (h : k < 24), k / 3 = 7 → (buffered bytesR []).pbuf[k] = (buffered bytesR [(0, 1), (3, 1), (20, 1)]).pbuf[k]) ∧
    (∀ k (h : k < 24), k / 4 = 3 → (buffered bytesP []).pbuf[k] = (buffered bytesP [(0, 1), (3, 1), (11, 1)]).pbuf[k]) ∧
    (∃ t, exec .gdecR (buffered bytesR []) = .next t) ∧
    (∃ t, exec .gdecP (buffered bytesP [(0, 1), (3, 1), (11, 1)]) = .next t) :=
  ⟨by decide +kernel, by decide +kernel, next_of_value (fun t => t.failmask) _ (by decide +kernel),
    next_of_value (fun t => t.failmask) _ (by decide +kernel)⟩

theorem test_witness_FailingCommandChangesOnlyItsReport :
    exec .enc State.reset = .next (completedErr 2 0 0 State.reset) ∧
    (completedErr 2 0 0 State.reset).status.err ≠ 0 := ⟨rfl, by decide⟩

/-- Each outcome: OK, CONSTRUCTION, UNCORRECTABLE, COMPOSITION. -/
theorem test_witness_EachErrorCodeHasItsRaisersAndInfo :
    value (fun t => t.status.err) (exec .penc State.reset) = some 0 ∧
    value (fun t => t.status.err) (exec .loadsched State.reset) = some 2 ∧
    value (fun t => t.status.err) (exec .pdec (dinState 0 1 State.reset)) = some 3 ∧
    value (fun t => (t.status.err, t.status.esym)) (exec .gdecR (buffered bytesR [(21, 1), (22, 2)])) = some (4, 7) := by
  decide +kernel

theorem test_witness_CommandsWriteOnlyTheirRegisters :
    (∃ t, exec .gencP ready = .next t) ∧ (∃ t, exec .rekey staged = .next t) :=
  ⟨next_of_value (fun t => t.failmask) _ (by decide +kernel), next_of_value (fun t => t.failmask) _ (by decide +kernel)⟩

/-- Reset and the committed state agree in DIN_LO and DOUT. -/
theorem test_witness_DirectEccReadsNoCipherState :
    State.reset.dinLo = ready.dinLo ∧ State.reset.doutHi = ready.doutHi ∧ State.reset.doutLo = ready.doutLo := by
  decide

/-- A step that changes nothing, a reset, and a completion of each commit. -/
theorem test_witness_ActiveStoresChangeTogetherAtACommit :
    step State.reset = .next State.reset ∧ (∃ t, step (setTurns [.reset] ready) = .next t) ∧
    ∀ w ∈ ([0x00000003, 0x00000403, 0x00000004] : List Word),
      EngineMoves (placeCommand w staged) ∧ (placeCommand w staged).pending = some w ∧
      ∃ t, step (placeCommand w staged) = .next t := by
  refine ⟨rfl, ⟨_, rfl⟩, fun w hw => ⟨.inr ⟨_, rfl⟩, rfl, ?_⟩⟩
  rcases List.mem_cons.1 hw with rfl | hw
  · exact next_of_value (fun t => t.status.kv) _ (by decide +kernel)
  rcases List.mem_cons.1 hw with rfl | hw
  · exact next_of_value (fun t => t.status.kv) _ (by decide +kernel)
  rcases List.mem_cons.1 hw with rfl | hw
  · exact next_of_value (fun t => t.status.kv) _ (by decide +kernel)
  · cases hw

/-- The committed state has the invariant, and a step. -/
theorem test_witness_EveryStepKeepsTheInvariant : StateInv ready ∧ step ready = .next ready :=
  ⟨⟨rfl, by decide, by decide, by decide, by decide, fun _ => rfl, fun h => by cases h⟩, rfl⟩

theorem test_witness_ReachableScheduleIsNeverStale :
    Reachable State.reset ∧ State.reset.status.so = false ∧ State.reset.status.kv = false := ⟨.reset, rfl, rfl⟩

/-- A pending ENC, a poll and a dropped write before its completion (program P4, outcome B). -/
theorem test_witness_PendingCommandIsUnaffectedByHostAccesses :
    (acceptCommand 1 ready).pending = some 1 ∧ (acceptCommand 1 ready).status.busy = true ∧
    (∀ a ∈ ([.read 0x004 4, .write 0x014 4 1] : List Turn), a.isAccess = true ∧ a.inContract = true) := by decide

/-- A run in the contract: EXEC REKEY.Z from reset, and a reset at its end. -/
theorem test_witness_EveryContractRunEndsWithNothingPending :
    (withProgram (execCmd .rekeyZ 1 ++ [.reset]) State.reset).status.busy =
      (withProgram (execCmd .rekeyZ 1 ++ [.reset]) State.reset).pending.isSome ∧
    InContract (withProgram (execCmd .rekeyZ 1 ++ [.reset]) State.reset) :=
  ⟨rfl, by intro t ht; revert t ht; decide⟩

end Sys2Proof.Tests
end

section
/-! The register window on the bus and the two open parameters (00_scope.md R9, 10_state.md R30). -/

namespace Sys2Proof.Config

theorem cfeBase_mod_4096 : cfeBase % 4096 = 0 := Nat.mul_mod_right 4096 cfeBasePage

theorem one_le_lat (w : Word) : 1 ≤ lat w := Nat.le_add_left 1 (latencyBeyondOne w)

end Sys2Proof.Config

namespace Sys2Proof.Machine

@[simp] theorem windowOffset_busAddress (off : Offset) : windowOffset (busAddress off) = some off := by
  have inWindow : Config.cfeBase ≤ busAddress off ∧ busAddress off < Config.cfeBase + 4096 :=
    ⟨Nat.le_add_right _ _, Nat.add_lt_add_left off.isLt _⟩
  have distance : busAddress off - Config.cfeBase = off.toNat := Nat.add_sub_cancel_left _ _
  rw [windowOffset, if_pos inWindow, distance, BitVec.ofNat_toNat, BitVec.setWidth_eq]

theorem windowOffset_eq_none_iff (a : Nat) :
    windowOffset a = none ↔ a < Config.cfeBase ∨ Config.cfeBase + 4096 ≤ a := by
  rw [windowOffset, ite_eq_right_iff]
  simp only [reduceCtorEq, imp_false]
  omega

/-- Settles O16: the base is a whole number of pages, an address of the window gives its offset back, the addresses that
select nothing are those outside the window, and LAT is a successor. -/
theorem windowStandsAtAnAlignedBase : Obligations.WindowStandsAtAnAlignedBase :=
  ⟨Config.cfeBase_mod_4096, windowOffset_busAddress, fun a => (windowOffset_eq_none_iff a).2, Config.one_le_lat⟩

end Sys2Proof.Machine
end

section
/-! The registers of 10_state.md: their reset values, what a host write at a register's offset does as a step (20_memory.md
R105, R106), and which of them no command changes. -/

namespace Sys2Proof.Machine

/-! ### Reset -/

/-- Settles O1: every register at its value of R59, and the S-box table against the rows of R58. -/
theorem resetLeavesEveryRegisterAtItsValue : Obligations.ResetLeavesEveryRegisterAtItsValue := by
  have sbox : State.reset.sboxStg.toList = (List.finRange 8).flatMap defaultSboxRow := by decide +kernel
  exact ⟨rfl, rfl, rfl, rfl, rfl, rfl, rfl,
    fun j h => ⟨Vector.getElem_replicate h, Vector.getElem_replicate h⟩, rfl,
    fun r h => ⟨Vector.getElem_replicate h, Vector.getElem_replicate h⟩, rfl,
    fun k h => Vector.getElem_replicate h, sbox, sbox⟩

/-! ### Writes of the host -/

/-- A write to a register's offset while idle is one step, by that register's rule. -/
theorem step_write_idle (r : Reg) (v : Word) (s : State) (rest : List Turn) (h : s.status.busy = false) :
    step (setTurns (.write r.offset 4 v :: rest) s) = .next (writeReg r v (setTurns rest s)) := by
  rw [step_setTurns_cons, writeTurn_aligned _ _ _ _ (offset_aligned r),
    busWrite_idle _ _ (setTurns rest s) r h (regAt_offset r)]

/-- A write to a register's offset while a command is pending is one step, and is dropped. -/
theorem step_write_busy (r : Reg) (v : Word) (s : State) (rest : List Turn) (h : s.status.busy = true) :
    step (setTurns (.write r.offset 4 v :: rest) s) = .next (dropWrite (setTurns rest s)) := by
  rw [step_setTurns_cons, writeTurn_aligned _ _ _ _ (offset_aligned r), busWrite_busy _ _ (setTurns rest s) h]

/-- Settles O10, by the two rules of a write at the offset of CMD. -/
theorem writeToCmdIsAcceptedWhenIdle : Obligations.WriteToCmdIsAcceptedWhenIdle := fun s rest v =>
  ⟨step_write_idle .cmd v s rest, step_write_busy .cmd v s rest, busRead_offset .cmd s⟩

/-- Settles O13: each store's rule at its own offset. -/
theorem dinPbufAndSboxWritesKeepTheLowBits : Obligations.DinPbufAndSboxWritesKeepTheLowBits := fun s rest v idle =>
  ⟨step_write_idle .dinHi v s rest idle, step_write_idle .dinLo v s rest idle,
    fun k h => step_write_idle (.pbuf ⟨k, h⟩) v s rest idle,
    fun e h => step_write_idle (.sboxStg ⟨e, h⟩) v s rest idle⟩

/-- Setting bit j: the other bits stay. -/
theorem getLsbD_or_one_shiftLeft {w : Nat} (x : BitVec w) (j k : Nat) (h : k < w) :
    (x ||| (1#w <<< j)).getLsbD k = (x.getLsbD k || decide (k = j)) := by
  have bit : (1#w <<< j).getLsbD k = decide (k = j) := by
    rw [← BitVec.twoPow_eq, BitVec.getLsbD_twoPow]
    grind
  rw [BitVec.getLsbD_or, bit]

/-! ### What no command changes -/

/-- No command changes WDROP, KEY_STG or SCHED_STG (R37, R44, R47). -/
theorem exec_keeps_wdrop_and_staged (i : Instr) (s t : State) (h : exec i s = .next t) :
    t.status.wdrop = s.status.wdrop ∧ t.keyStg = s.keyStg ∧ t.schedStg = s.schedStg := by
  obtain ⟨e, m, f, -, rfl⟩ | ⟨u, hw, rfl⟩ := exec_cases i s t h
  · exact ⟨rfl, rfl, rfl⟩
  · obtain ⟨-, -, hkey, hsched, -, hwdrop, -⟩ := writes_keep_operands i s u hw
    exact ⟨hwdrop, hkey, hsched⟩

/-- Settles O11: the rule of an idle write to STATUS, of a dropped write, and of every command. -/
theorem wdropIsSetByDropsAndClearedByWritingOne : Obligations.WdropIsSetByDropsAndClearedByWritingOne := by
  refine ⟨fun s rest v idle => ?_, fun s off v busy => ?_, fun i s t h => (exec_keeps_wdrop_and_staged i s t h).1⟩
  · have cleared : (s.status.wdrop && !v.getLsbD 3) = if v.getLsbD 3 then false else s.status.wdrop := by
      cases v.getLsbD 3 <;> simp
    rw [← cleared]
    exact step_write_idle .status v s rest idle
  · rw [busWrite_busy off v s busy, dropWrite_wdrop]

/-- Settles O12: the mask is the old one with one bit set, and no command writes a staged store. -/
theorem stagedKeyAndScheduleWritesAreRecorded : Obligations.StagedKeyAndScheduleWritesAreRecorded :=
  ⟨fun s rest v j h idle =>
      ⟨_, fun k hk => getLsbD_or_one_shiftLeft s.keyWr j k hk, step_write_idle (.keyStg ⟨j, h⟩) v s rest idle⟩,
    fun s rest v r h idle =>
      ⟨_, fun k hk => getLsbD_or_one_shiftLeft s.schedWr r k hk, step_write_idle (.schedStg ⟨r, h⟩) v s rest idle⟩,
    fun i s t h => (exec_keeps_wdrop_and_staged i s t h).2⟩

end Sys2Proof.Machine
end

section
/-! The invariant of every reachable state. It has three independent parts: BUSY agrees with `pending` (10_state.md R55), the
recorded result is a possible one (R38, R39, R41), and the active stores agree with KV and SO (R35, R36, R53, R54). Each
part is stated of the registers it reads, so that an update of other registers keeps it by definition. -/

namespace Sys2Proof.Machine

/-- ERR, ESYM and FAILMASK as a completion can leave them: the clauses of `StateInv` about the result. -/
structure ResultInv (err : BitVec 4) (esym : BitVec 5) (fmask : BitVec 16) : Prop where
  err_in_range : err.toNat ≤ 4
  no_failing_symbol : err ≠ 4 → esym = 0 ∧ fmask = 0
  first_failing_symbol : err = 4 →
    esym.toNat < 16 ∧ fmask.getLsbD esym.toNat = true ∧ ∀ j < esym.toNat, fmask.getLsbD j = false

/-- KV, SO and the active stores as reset or a commit can leave them: the clauses of `StateInv` about the stores. -/
structure StoresInv (kv so : Bool) (key : Vector Word 8) (rk : Vector Word 32) (sbox : Vector Nibble 128) : Prop where
  override_after_commit : so = true → kv = true
  schedule_of_key : so = false → rk = sched key
  stores_before_commit : kv = false →
    key = Vector.replicate 8 0 ∧ rk = Vector.replicate 32 0 ∧ sbox = defaultSbox

/-- The invariant is its three parts. -/
theorem stateInv_iff (s : State) : StateInv s ↔
    s.status.busy = s.pending.isSome ∧ ResultInv s.status.err s.status.esym s.failmask ∧
    StoresInv s.status.kv s.status.so s.keyAct s.rkey s.sboxAct := by
  constructor
  · rintro ⟨busy, range, none, first, after, schedule, before⟩
    exact ⟨busy, ⟨range, none, first⟩, ⟨after, schedule, before⟩⟩
  · rintro ⟨busy, ⟨range, none, first⟩, ⟨after, schedule, before⟩⟩
    exact ⟨busy, range, none, first, after, schedule, before⟩

/-! ### The recorded result -/

/-- A code other than COMPOSITION is recorded with ESYM and FAILMASK 0. -/
theorem resultInv_of_lt (err : BitVec 4) (h : err.toNat < 4) : ResultInv err 0 0 :=
  ⟨h.le, fun _ => ⟨rfl, rfl⟩, fun h4 => absurd h (by rw [h4]; decide)⟩

/-- ESYM of a failing composed decode names the lowest failing slot (R39, 43_composition.md R290). -/
theorem firstFailing_toNat (f : BitVec 16) (h : f ≠ 0) : (firstFailing f).toNat = ctz f := by
  have bound : ctz f < 16 := (ctz_spec f h).1
  rw [firstFailing, BitVec.toNat_ofNat, Nat.mod_eq_of_lt (by omega)]

/-- COMPOSITION is recorded with the failing slots and the lowest of them. -/
theorem resultInv_composition (f : BitVec 16) (h : f ≠ 0) : ResultInv 4 (firstFailing f) f := by
  refine ⟨by decide, fun h4 => absurd rfl h4, fun _ => ?_⟩
  rw [firstFailing_toNat f h]
  exact ctz_spec f h

/-- Every error of a legal command leaves a possible result. -/
theorem resultInv_of_raises {e : ErrCode} {m : BitVec 5} {f : BitVec 16} (h : Raises e m f) :
    ResultInv e.code m f := by
  obtain ⟨rfl | rfl, rfl, rfl⟩ | ⟨rfl, hf, rfl⟩ := h
  · exact resultInv_of_lt 2 (by decide)
  · exact resultInv_of_lt 3 (by decide)
  · exact resultInv_composition f hf

/-! ### The active stores -/

/-- A commit without an override leaves consistent stores when its schedule is that of its key. -/
theorem storesInv_keyed (key : Vector Word 8) (sbox : Vector Nibble 128) :
    StoresInv true false key (sched key) sbox :=
  ⟨fun _ => rfl, fun _ => rfl, nofun⟩

/-- A commit of an override leaves consistent stores whatever the schedule is. -/
theorem storesInv_override (key : Vector Word 8) (rk : Vector Word 32) (sbox : Vector Nibble 128) :
    StoresInv true true key rk sbox :=
  ⟨fun _ => rfl, nofun, nofun⟩

/-- The writes of every command keep the active stores consistent: a commit makes them so, the others leave them. -/
theorem writes_keep_storesInv (i : Instr) (s u : State) (h : Writes i s u)
    (hs : StoresInv s.status.kv s.status.so s.keyAct s.rkey s.sboxAct) :
    StoresInv u.status.kv u.status.so u.keyAct u.rkey u.sboxAct := by
  cases hi : isCommit i with
  | false =>
    obtain ⟨hkey, hrk, hsbox, hkv, hso⟩ := writes_keep_stores i s u hi h
    rwa [hkey, hrk, hsbox, hkv, hso]
  | true =>
    obtain ⟨key, rk, so, v, rfl, -, hcommit⟩ := writes_commit i s u hi h
    obtain ⟨-, rfl, rfl, rfl⟩ | ⟨-, rfl, rfl, rfl⟩ | ⟨-, rfl, -, -⟩ := hcommit
    · exact storesInv_keyed _ _
    · rw [← sched_zero]
      exact storesInv_keyed _ _
    · exact storesInv_override _ _ _

/-! ### Every step -/

/-- The outside world's side of the port is no part of the invariant. -/
theorem StateInv.with_port {s : State} (h : StateInv s) (p : Port) : StateInv { s with port := p } :=
  (stateInv_iff _).2 ((stateInv_iff s).1 h)

/-- Settles O56: after reset no command is pending, no error is recorded, and the schedule is that of the zero key. -/
theorem resetStateMeetsTheInvariant : Obligations.ResetStateMeetsTheInvariant :=
  (stateInv_iff _).2 ⟨rfl, resultInv_of_lt 0 (by decide), nofun, fun _ => sched_zero.symm, fun _ => ⟨rfl, rfl, rfl⟩⟩

/-- A host write keeps the invariant: the result and the active stores are read-only to the host. -/
theorem StateInv.of_busWrite {s : State} (h : StateInv s) (off : Offset) (v : Word) : StateInv (busWrite off v s) := by
  obtain ⟨hbusy, hresult, hstores⟩ := (stateInv_iff s).1 h
  obtain ⟨hmask, -, -, hkey, hrk, hsbox, hkv, hso, herr, hesym, -⟩ := busWrite_frame off v s
  refine (stateInv_iff _).2 ⟨busWrite_busy_iff off v s hbusy, ?_, ?_⟩
  · rwa [herr, hesym, hmask]
  · rwa [hkv, hso, hkey, hrk, hsbox]

/-- The completion of a legal command keeps the invariant. -/
theorem StateInv.of_exec {s t : State} (h : StateInv s) (i : Instr) (he : exec i s = .next t) : StateInv t := by
  obtain ⟨-, -, hstores⟩ := (stateInv_iff s).1 h
  obtain ⟨e, m, f, hr, rfl⟩ | ⟨u, hw, rfl⟩ := exec_cases i s t he
  · exact (stateInv_iff _).2 ⟨rfl, resultInv_of_raises hr, hstores⟩
  · exact (stateInv_iff _).2 ⟨rfl, resultInv_of_lt 0 (by decide), writes_keep_storesInv i s u hw hstores⟩

/-- The engine's turn keeps the invariant: it is idle, completes a legal command, or records ILLEGAL. -/
theorem StateInv.of_engineTurn {s t : State} (h : StateInv s) (he : engineTurn s = .next t) : StateInv t := by
  obtain ⟨-, idle⟩ | ⟨w, i, -, -, legal⟩ | ⟨w, r, -, -, illegal⟩ := engineTurn_cases s
  · obtain rfl := Host.Outcome.next.inj (idle.symm.trans he)
    exact h
  · exact h.of_exec i (legal.symm.trans he)
  · obtain rfl := Host.Outcome.next.inj (illegal.symm.trans he)
    obtain ⟨-, -, hstores⟩ := (stateInv_iff s).1 h
    exact (stateInv_iff _).2 ⟨rfl, resultInv_of_lt 1 (by decide), hstores⟩

/-- Every turn keeps the invariant. -/
theorem StateInv.of_takeTurn {s u : State} (h : StateInv s) (t : Turn) (ht : takeTurn t s = .next u) : StateInv u := by
  obtain ⟨off, _, -, -, rfl⟩ | ⟨off, _, v, -, -, rfl⟩ | ⟨-, he⟩ | ⟨-, rfl⟩ := takeTurn_cases t s u ht
  · exact h.with_port _
  · exact h.of_busWrite off v
  · exact h.of_engineTurn he
  · exact resetStateMeetsTheInvariant.with_port _

/-- Settles O57: the next turn is taken in the state without it, or the engine moves. -/
theorem everyStepKeepsTheInvariant : Obligations.EveryStepKeepsTheInvariant := by
  intro s t h hstep
  cases hturns : s.port.turns with
  | nil => exact h.of_engineTurn ((step_of_turns_nil s hturns).symm.trans hstep)
  | cons turn rest =>
    have moved : StateInv (setTurns rest s) := h.with_port _
    exact moved.of_takeTurn turn ((step_of_turns_cons s turn rest hturns).symm.trans hstep)

/-- Every reachable state has the invariant. -/
theorem Reachable.stateInv {s : State} (h : Reachable s) : StateInv s := by
  induction h with
  | reset => exact resetStateMeetsTheInvariant
  | world s ts _ ih => exact ih.with_port _
  | step s t _ hstep ih => exact everyStepKeepsTheInvariant s t ih hstep

/-- Settles O58, from the invariant's clauses about the active stores. -/
theorem reachableScheduleIsNeverStale : Obligations.ReachableScheduleIsNeverStale := fun s reachable =>
  have inv := reachable.stateInv
  ⟨fun keyed r _ => by rw [inv.schedule_of_key keyed], inv.stores_before_commit⟩

end Sys2Proof.Machine
end

section
/-! The register window on the bus (20_memory.md): which accesses are one step, what a read returns at each offset of the map
(10_state.md R31), which idle writes are ignored, and how bytes are packed into the words a host writes (R109, R112). -/

namespace Sys2Proof.Machine

/-! ### Aligned accesses -/

theorem alignedWord_iff (off : Offset) (width : Nat) :
    alignedWord off width = true ↔ width = 4 ∧ off.toNat % 4 = 0 := by
  simp [alignedWord]

/-- An aligned read is one step: it hands over the register's value (R107). -/
theorem step_read_aligned (off : Offset) (s : State) (rest : List Turn) (h : off.toNat % 4 = 0) :
    step (setTurns (.read off 4 :: rest) s) = .next (reply (busRead off s) (setTurns rest s)) :=
  readTurn_aligned off 4 (setTurns rest s) ((alignedWord_iff off 4).2 ⟨rfl, h⟩)

/-- An aligned write is one step: it does what the window does with it. -/
theorem step_write_aligned (off : Offset) (v : Word) (s : State) (rest : List Turn) (h : off.toNat % 4 = 0) :
    step (setTurns (.write off 4 v :: rest) s) = .next (busWrite off v (setTurns rest s)) :=
  writeTurn_aligned off 4 v (setTurns rest s) ((alignedWord_iff off 4).2 ⟨rfl, h⟩)

/-- Settles O8: both turns test the contract of R100 before anything else. -/
theorem nonWordAccessIsRefusedByName : Obligations.NonWordAccessIsRefusedByName := by
  intro s rest off width v h
  have refused : ¬ alignedWord off width = true := by
    rw [alignedWord_iff]
    omega
  exact ⟨if_neg refused, if_neg refused⟩

/-- Settles O9, by the rule of a dropped write. -/
theorem writeWhileBusyIsDropped : Obligations.WriteWhileBusyIsDropped := by
  intro s rest off v busy aligned
  rw [step_write_aligned off v s rest aligned, busWrite_busy off v (setTurns rest s) busy]
  rfl

/-! ### The map -/

/-- The reserved offsets of R31 select no register. -/
theorem regAt_reserved (off : Offset)
    (h : (0x00C ≤ off.toNat ∧ off.toNat < 0x010) ∨ (0x048 ≤ off.toNat ∧ off.toNat < 0x080) ∨ 0x600 ≤ off.toNat) :
    regAt off = none := by
  unfold regAt
  generalize off.toNat = n at h
  obtain h | h | h := h
  · simp (disch := omega) only [if_neg, if_pos]
  · simp (disch := omega) only [if_neg, if_pos]
  · simp (disch := omega) only [if_neg]

theorem Reg.offset_toNat (r : Reg) : r.offset.toNat = r.offsetNat := by
  refine Nat.mod_eq_of_lt ?_
  cases r <;> simp only [Reg.offsetNat] <;> omega

/-- The layout of R33 and R40, read off the STATUS word. -/
theorem Status.word_fields (st : Status) :
    st.word.getLsbD 0 = st.busy ∧ st.word.getLsbD 1 = st.kv ∧ st.word.getLsbD 2 = st.so ∧
    st.word.getLsbD 3 = st.wdrop ∧ st.word.extractLsb' 4 4 = st.err ∧ st.word.extractLsb' 8 5 = st.esym ∧
    st.word.extractLsb' 13 19 = 0 := by
  unfold Status.word
  refine ⟨?_, ?_, ?_, ?_, ?_, ?_, ?_⟩
  iterate 4
    · simp only [BitVec.getLsbD_append]
      simp
  iterate 3
    · simp (disch := omega) only [BitVec.extractLsb'_append_eq_of_le, BitVec.extractLsb'_append_eq_of_add_le]
      exact BitVec.extractLsb'_eq_self

/-- Settles O7: the step of an aligned read, the value at each register's own offset, and no register at a reserved one. -/
theorem readsReturnCurrentValuesAndChangeNothing : Obligations.ReadsReturnCurrentValuesAndChangeNothing := by
  intro s
  have status : busRead 0x004 s = s.status.word := busRead_offset .status s
  have reserved : ∀ off : Offset, off = 0x00C ∨ (0x048 ≤ off.toNat ∧ off.toNat ≤ 0x07C) ∨ 0x600 ≤ off.toNat →
      busRead off s = 0 := by
    intro off h
    have none_there : regAt off = none := by
      obtain rfl | h := h
      · rfl
      · exact regAt_reserved off (by omega)
    rw [busRead, none_there]
  rw [status]
  exact ⟨fun off rest aligned => step_read_aligned off s rest aligned, busRead_offset .cmd s, s.status.word_fields,
    busRead_offset .failmask s, busRead_offset .dinHi s, busRead_offset .dinLo s, busRead_offset .doutHi s,
    busRead_offset .doutLo s, fun j h => busRead_offset (.keyStg ⟨j, h⟩) s, busRead_offset .keyWr s,
    busRead_offset .schedWr s, fun r h => busRead_offset (.schedStg ⟨r, h⟩) s,
    fun r h => busRead_offset (.rkey ⟨r, h⟩) s, fun k h => busRead_offset (.pbuf ⟨k, h⟩) s,
    fun j h => busRead_offset (.keyAct ⟨j, h⟩) s, fun e h => busRead_offset (.sboxStg ⟨e, h⟩) s,
    fun e h => busRead_offset (.sboxAct ⟨e, h⟩) s, reserved⟩

/-! ### Ignored writes -/

/-- A register that stands at a read-only offset of R31 ignores a write (R103). -/
theorem writeReg_at_readOnly_offset (r : Reg) (v : Word) (s : State)
    (h : r.offsetNat ∈ [0x008, 0x00C, 0x018, 0x01C, 0x040, 0x044] ∨ (0x048 ≤ r.offsetNat ∧ r.offsetNat ≤ 0x07C) ∨
      (0x100 ≤ r.offsetNat ∧ r.offsetNat ≤ 0x17C) ∨ (0x1E0 ≤ r.offsetNat ∧ r.offsetNat ≤ 0x1FC) ∨
      0x400 ≤ r.offsetNat) :
    writeReg r v s = s := by
  cases r with
  | failmask | doutHi | doutLo | keyWr | schedWr | rkey _ | keyAct _ | sboxAct _ => rfl
  | cmd | status | dinHi | dinLo | keyStg _ | schedStg _ | pbuf _ | sboxStg _ =>
    simp only [Reg.offsetNat, List.mem_cons, List.not_mem_nil, or_false] at h
    omega

/-- Settles O14: the offset selects no register, or one that stands at a read-only offset. -/
theorem writeToReadOnlyOrReservedIsIgnored : Obligations.WriteToReadOnlyOrReservedIsIgnored := by
  intro s rest off v idle aligned h
  rw [step_write_aligned off v s rest aligned]
  obtain ⟨busy, -⟩ | ⟨-, -, ignored⟩ | ⟨r, -, hr, written⟩ := busWrite_cases off v (setTurns rest s)
  · exact absurd (idle.symm.trans busy) Bool.false_ne_true
  · rw [ignored]
  · have offset : off.toNat = r.offsetNat := by rw [offset_of_regAt off r aligned hr, r.offset_toNat]
    rw [written, writeReg_at_readOnly_offset]
    simpa [← offset, BitVec.toNat_eq] using h

/-! ### Packing of bytes -/

/-- Byte k of a word packed from four bytes is the k-th of them. -/
theorem byteOfWord_wordOfBytes (b0 b1 b2 b3 : Byte) (k : Nat) (h : k < 4) :
    byteOfWord (wordOfBytes b0 b1 b2 b3) k = #v[b0, b1, b2, b3][k] := by
  unfold byteOfWord wordOfBytes
  interval_cases k
  iterate 4
    · simp (disch := omega) only [BitVec.extractLsb'_append_eq_of_le, BitVec.extractLsb'_append_eq_of_add_le]
      exact BitVec.extractLsb'_eq_self

/-- Settles O17: byte k of its word, where the block's words are its two halves. -/
theorem bytesArePackedBigEndian : Obligations.BytesArePackedBigEndian := by
  constructor
  · intro b j k hj hk
    have word : (wordsOfBytes b)[j] = wordOfBytes b[4 * j] b[4 * j + 1] b[4 * j + 2] b[4 * j + 3] := by
      simp [wordsOfBytes]
    rw [word]
    refine (byteOfWord_wordOfBytes _ _ _ _ k hk).trans ?_
    interval_cases k <;> rfl
  · intro p k hk
    obtain high | ⟨m, rfl⟩ : k < 4 ∨ ∃ m, k = 4 + m := (Nat.lt_or_ge k 4).imp_right Nat.exists_eq_add_of_le
    · rw [blockOfBytes, BitVec.extractLsb'_append_eq_of_le (by omega), show 56 - 8 * k - 32 = 24 - 8 * k by omega]
      refine (byteOfWord_wordOfBytes _ _ _ _ k high).trans ?_
      interval_cases k <;> rfl
    · rw [blockOfBytes, BitVec.extractLsb'_append_eq_of_add_le (by omega),
        show 56 - 8 * (4 + m) = 24 - 8 * m by omega]
      have low : m < 4 := by omega
      refine (byteOfWord_wordOfBytes _ _ _ _ m low).trans ?_
      interval_cases m <;> rfl

end Sys2Proof.Machine
end

section
/-! What a pending command depends on (20_memory.md R110, R111, R116). An update of the state that a command neither reads nor
writes goes through its completion unchanged: the staged stores through the datapath commands, and WDROP and the port, which
are all that the host can change while the command is pending (R105), through every command. -/

namespace Sys2Proof.Machine

/-! ### The engine's turn -/

theorem step_of_engineMoves (s : State) (h : EngineMoves s) : step s = engineTurn (setTurns s.port.turns.tail s) := by
  obtain empty | ⟨rest, engine⟩ := h
  · rw [step_of_turns_nil s empty, empty, List.tail_nil, ← empty, setTurns_self]
  · rw [step_of_turns_cons s .engine rest engine, takeTurn_engine, engine, List.tail_cons]

theorem engineTurn_of_decode (s : State) (w : Word) (i : Instr) (hp : s.pending = some w) (hd : decode w = .ok i) :
    engineTurn s = exec i s := by
  simp only [engineTurn, hp, hd]

theorem engineTurn_of_decode_error (s : State) (w : Word) (e : DecodeError) (hp : s.pending = some w)
    (hd : decode w = .error e) : engineTurn s = .next (completedErr 1 0 0 s) := by
  simp only [engineTurn, hp, hd]
  rfl

theorem engineTurn_idle (s : State) (h : s.pending = none) : engineTurn s = .next s := by
  simp only [engineTurn, h]

/-- Settles O6, by the engine's turn in the state without it. -/
theorem stepCompletesThePendingCommand : Obligations.StepCompletesThePendingCommand := by
  intro s moves
  rw [step_of_engineMoves s moves]
  exact ⟨fun w i => engineTurn_of_decode (setTurns s.port.turns.tail s) w i,
    engineTurn_idle (setTurns s.port.turns.tail s)⟩

/-! ### Updates that go through a completion -/

/-- The meaning `m` answers a next state from `s`, and from `s` updated by `f` it answers that state updated by `f`. -/
def Carries (f : State → State) (m : State → Result) (s : State) : Prop :=
  ∃ t, m s = .next t ∧ m (f s) = .next (f t)

section
variable {f : State → State} {s : State}

theorem Carries.of_finish {w : State → State} (h : completedOk (w (f s)) = f (completedOk (w s))) :
    Carries f (fun s => finish (w s)) s :=
  ⟨_, rfl, congrArg Host.Outcome.next h⟩

theorem Carries.of_raise {e : ErrCode} {m : State → BitVec 5} {fm : State → BitVec 16}
    (h : completedErr e.code (m (f s)) (fm (f s)) (f s) = f (completedErr e.code (m s) (fm s) s)) :
    Carries f (fun s => raiseError e (m s) (fm s) s) s :=
  ⟨_, rfl, congrArg Host.Outcome.next h⟩

/-- A meaning that branches on what `f` does not change. -/
theorem Carries.of_ite {c : State → Prop} [∀ s, Decidable (c s)] {m n : State → Result} (hc : c (f s) ↔ c s)
    (hm : Carries f m s) (hn : Carries f n s) : Carries f (fun s => if c s then m s else n s) s := by
  by_cases h : c s
  · simpa only [Carries, if_pos h, if_pos (hc.2 h)] using hm
  · simpa only [Carries, if_neg h, if_neg (mt hc.1 h)] using hn

/-- The update `f` touches nothing that ENC, DEC, GENC.c and GDEC.c read or write. -/
structure DatapathIgnores (f : State → State) : Prop where
  kv_eq : ∀ s, (f s).status.kv = s.status.kv
  din_eq : ∀ s, din (f s) = din s
  rkey_eq : ∀ s, (f s).rkey = s.rkey
  sboxAct_eq : ∀ s, (f s).sboxAct = s.sboxAct
  pbuf_eq : ∀ s, (f s).pbuf = s.pbuf
  writeDout_comm : ∀ y s, writeDout y (f s) = f (writeDout y s)
  writePbuf_comm : ∀ {L : Nat} (b : Vector Byte L) s, writePbuf b (f s) = f (writePbuf b s)
  completedOk_comm : ∀ s, completedOk (f s) = f (completedOk s)
  completedErr_comm : ∀ c m fm s, completedErr c m fm (f s) = f (completedErr c m fm s)

namespace DatapathIgnores
variable (hf : DatapathIgnores f)
include hf

/-- The test of KV that begins each of the eight commands (R175, R282, R290). -/
theorem carries_ready {m : State → Result} (hm : Carries f m s) :
    Carries f (fun s => if s.status.kv then m s else raiseError .construction 0 0 s) s :=
  .of_ite (by rw [hf.kv_eq]) hm (.of_raise (hf.completedErr_comm _ _ _ s))

/-- ENC and DEC, which differ in the direction of the rounds alone (R175, R176). -/
theorem carries_cipher (crypt : Vector Nibble 128 → Vector Word 32 → Block → Block) :
    Carries f (fun s => if s.status.kv then finish (writeDout (crypt s.sboxAct s.rkey (din s)) s)
      else raiseError .construction 0 0 s) s :=
  hf.carries_ready (.of_finish (by rw [hf.sboxAct_eq, hf.rkey_eq, hf.din_eq, hf.writeDout_comm, hf.completedOk_comm]))

theorem carries_genc {L : Nat} (frame : Block → Vector Byte L) : Carries f (genc frame) s :=
  hf.carries_ready (.of_finish (by rw [hf.sboxAct_eq, hf.rkey_eq, hf.din_eq, hf.writePbuf_comm, hf.completedOk_comm]))

theorem carries_gdec {w n : Nat} (unframe : Vector Byte 24 → Vector (Option (BitVec w)) n) :
    Carries f (gdec unframe) s :=
  hf.carries_ready (.of_ite (by rw [hf.pbuf_eq]) (.of_raise (by rw [hf.pbuf_eq, hf.completedErr_comm]))
    (.of_finish (by rw [hf.sboxAct_eq, hf.rkey_eq, hf.pbuf_eq, hf.writeDout_comm, hf.completedOk_comm])))

/-- The eight commands of R116. -/
theorem carries_exec (i : Instr)
    (hi : i ∈ ([.enc, .dec, .gencH, .gencR, .gencP, .gdecH, .gdecR, .gdecP] : List Instr)) : Carries f (exec i) s := by
  cases i with
  | enc => exact hf.carries_cipher encrypt
  | dec => exact hf.carries_cipher decrypt
  | gencH => exact hf.carries_genc frameH
  | gencR => exact hf.carries_genc frameR
  | gencP => exact hf.carries_genc frameP
  | gdecH => exact hf.carries_gdec unframeH
  | gdecR => exact hf.carries_gdec unframeR
  | gdecP => exact hf.carries_gdec unframeP
  | _ => exact absurd hi (by decide)

end DatapathIgnores
end

/-! ### Staged values -/

/-- Every staged store and its written mask replaced. -/
def restage (k : Vector Word 8) (kw : BitVec 8) (r : Vector Word 32) (sw : BitVec 32) (b : Vector Nibble 128)
    (s : State) : State :=
  { s with keyStg := k, keyWr := kw, schedStg := r, schedWr := sw, sboxStg := b }

theorem datapathIgnores_restage (k : Vector Word 8) (kw : BitVec 8) (r : Vector Word 32) (sw : BitVec 32)
    (b : Vector Nibble 128) : DatapathIgnores (restage k kw r sw b) where
  kv_eq _ := rfl
  din_eq _ := rfl
  rkey_eq _ := rfl
  sboxAct_eq _ := rfl
  pbuf_eq _ := rfl
  writeDout_comm _ _ := rfl
  writePbuf_comm _ _ := rfl
  completedOk_comm _ := rfl
  completedErr_comm _ _ _ _ := rfl

/-- Settles O54: the datapath neither reads nor writes the staged stores. -/
theorem stagedStoresDoNotReachTheDatapath : Obligations.StagedStoresDoNotReachTheDatapath :=
  fun i hi _ k kw r sw b => (datapathIgnores_restage k kw r sw b).carries_exec i hi

/-! ### Host accesses to a busy CFE -/

/-- What host accesses leave on a busy CFE (R105, R107): WDROP set if one of them was a write, and the port. -/
def noteAccesses (dropped : Bool) (p : Port) (s : State) : State :=
  { s with status := { s.status with wdrop := s.status.wdrop || dropped }, port := p }

theorem datapathIgnores_noteAccesses (dropped : Bool) (p : Port) : DatapathIgnores (noteAccesses dropped p) where
  kv_eq _ := rfl
  din_eq _ := rfl
  rkey_eq _ := rfl
  sboxAct_eq _ := rfl
  pbuf_eq _ := rfl
  writeDout_comm _ _ := rfl
  writePbuf_comm _ _ := rfl
  completedOk_comm _ := rfl
  completedErr_comm _ _ _ _ := rfl

theorem execRdec_some (s : State) (b : Byte) (h : rDec (dinByte0 s) (dinByte1 s) (dinByte s) = some b) :
    execRdec s = .next (completedOk (writeDoutLow (b.setWidth 32) s)) := by
  simp only [execRdec, h, finish_eq]

theorem execRdec_none (s : State) (h : rDec (dinByte0 s) (dinByte1 s) (dinByte s) = none) :
    execRdec s = .next (completedErr 3 0 0 s) := by
  simp only [execRdec, h, raiseError_eq, ErrCode.code]

theorem execPdec_some (s : State) (d : Half) (h : pDec s.dinLo = some d) :
    execPdec s = .next (completedOk (writeDoutLow (d.setWidth 32) s)) := by
  simp only [execPdec, h, finish_eq]

theorem execPdec_none (s : State) (h : pDec s.dinLo = none) : execPdec s = .next (completedErr 3 0 0 s) := by
  simp only [execPdec, h, raiseError_eq, ErrCode.code]

/-- No command reads or writes WDROP or the port. -/
theorem carries_noteAccesses_exec (dropped : Bool) (p : Port) (i : Instr) (s : State) :
    Carries (noteAccesses dropped p) (exec i) s := by
  cases i with
  | enc | dec | gencH | gencR | gencP | gdecH | gdecR | gdecP =>
    exact (datapathIgnores_noteAccesses dropped p).carries_exec _ (by decide)
  | henc | hdec | renc | penc | rekeyZ => exact .of_finish rfl
  | rekey | loadsched => exact .of_ite Iff.rfl (.of_finish rfl) (.of_raise rfl)
  | rdec =>
    cases h : rDec (dinByte0 s) (dinByte1 s) (dinByte s) with
    | some b => exact ⟨_, execRdec_some s b h, execRdec_some (noteAccesses dropped p s) b h⟩
    | none => exact ⟨_, execRdec_none s h, execRdec_none (noteAccesses dropped p s) h⟩
  | pdec =>
    cases h : pDec s.dinLo with
    | some d => exact ⟨_, execPdec_some s d h, execPdec_some (noteAccesses dropped p s) d h⟩
    | none => exact ⟨_, execPdec_none s h, execPdec_none (noteAccesses dropped p s) h⟩

/-- Nor does the engine's turn, whatever is pending. -/
theorem carries_noteAccesses_engineTurn (dropped : Bool) (p : Port) (s : State) :
    Carries (noteAccesses dropped p) engineTurn s := by
  obtain ⟨hp, idle⟩ | ⟨w, i, hp, hd, legal⟩ | ⟨w, e, hp, hd, illegal⟩ := engineTurn_cases s
  · exact ⟨s, idle, engineTurn_idle (noteAccesses dropped p s) hp⟩
  · obtain ⟨t, ht, hu⟩ := carries_noteAccesses_exec dropped p i s
    exact ⟨t, legal.trans ht, (engineTurn_of_decode (noteAccesses dropped p s) w i hp hd).trans hu⟩
  · exact ⟨_, illegal, engineTurn_of_decode_error (noteAccesses dropped p s) w e hp hd⟩

theorem noteAccesses_false (p : Port) (s : State) : noteAccesses false p s = { s with port := p } := by
  simp only [noteAccesses, Bool.or_false]

theorem noteAccesses_true (p : Port) (s : State) : noteAccesses true p s = { dropWrite s with port := p } := by
  simp only [noteAccesses, Bool.or_true, dropWrite]

theorem noteAccesses_noteAccesses (d d' : Bool) (p q : Port) (s : State) :
    noteAccesses d' p (noteAccesses d q s) = noteAccesses (d || d') p s := by
  simp only [noteAccesses, Bool.or_assoc]

/-- One access in the contract to a busy CFE. -/
theorem takeTurn_access (a : Turn) (s : State) (busy : s.status.busy = true) (access : a.isAccess = true)
    (contract : a.inContract = true) :
    ∃ p, takeTurn a s = .next (noteAccesses a.isWrite p s) ∧ p.turns = s.port.turns := by
  cases a with
  | read off width =>
    refine ⟨(reply (busRead off s) s).port, ?_, rfl⟩
    rw [readTurn_aligned off width s contract, Turn.isWrite, noteAccesses_false]
    rfl
  | write off width v =>
    refine ⟨s.port, ?_, rfl⟩
    rw [writeTurn_aligned off width v s contract, busWrite_busy off v s busy, Turn.isWrite, noteAccesses_true]
    rfl
  | engine | reset => cases access

/-- A run through host accesses to a busy CFE. -/
theorem run_accesses (accesses rest : List Turn) (n : Nat) (s : State) (busy : s.status.busy = true)
    (h : ∀ a ∈ accesses, a.isAccess = true ∧ a.inContract = true) :
    ∃ p : Port, p.turns = rest ∧ core.run (accesses.length + n) (setTurns (accesses ++ rest) s) =
      core.run n (noteAccesses (accesses.any Turn.isWrite) p s) := by
  induction accesses generalizing s with
  | nil =>
    refine ⟨(setTurns rest s).port, rfl, ?_⟩
    rw [List.any_nil, noteAccesses_false, List.length_nil, Nat.zero_add]
    rfl
  | cons a accesses ih =>
    obtain ⟨⟨access, contract⟩, h⟩ := List.forall_mem_cons.1 h
    obtain ⟨q, taken, hq⟩ := takeTurn_access a (setTurns (accesses ++ rest) s) busy access contract
    obtain ⟨p, hp, run⟩ := ih (noteAccesses a.isWrite q s) busy h
    refine ⟨p, hp, ?_⟩
    have moved : noteAccesses a.isWrite q (setTurns (accesses ++ rest) s) =
        setTurns (accesses ++ rest) (noteAccesses a.isWrite q s) := by
      rw [setTurns, ← show q.turns = accesses ++ rest from hq]
      rfl
    rw [List.length_cons, Nat.add_right_comm, List.cons_append,
      core_run_succ _ _ _ ((step_setTurns_cons a _ s).trans taken), moved, run, noteAccesses_noteAccesses, List.any_cons]

/-- Settles O59: the accesses leave what `noteAccesses` says, which the engine's turn carries through the completion. -/
theorem pendingCommandIsUnaffectedByHostAccesses : Obligations.PendingCommandIsUnaffectedByHostAccesses := by
  intro s w accesses rest _ busy h
  obtain ⟨p, hp, run⟩ := run_accesses accesses (.engine :: rest) 1 s busy h
  obtain ⟨t, immediate, later⟩ :=
    carries_noteAccesses_engineTurn (accesses.any Turn.isWrite) { p with turns := rest } (setTurns rest s)
  have engine := step_of_turns_cons (noteAccesses (accesses.any Turn.isWrite) p s) .engine rest hp
  exact ⟨t, _, core_run_succ 0 _ t immediate, run.trans (core_run_succ 0 _ _ (engine.trans later)), rfl, rfl⟩

end Sys2Proof.Machine
end

section
/-! Command words: the decoding procedure of 30_encoding.md R139 and the opcode map of R136 say the same. -/

namespace Sys2Proof

/-! ### The fields of a decoded word -/

/-- CODEC picks the composed command with that CODEC (R133). -/
theorem fields_of_composedOp (op : BitVec 8) (cd : BitVec 2) (i : Instr) (hop : op = 0x20 ∨ op = 0x21)
    (h : composedOp op cd = .ok i) : i.fields = ⟨op, cd, 0, 0⟩ := by
  have codecs : ∀ c : BitVec 2, c = 0 ∨ c = 1 ∨ c = 2 ∨ c = 3 := by decide
  obtain rfl | rfl | rfl | rfl := codecs cd
  case inr.inr.inr => cases h
  all_goals obtain rfl | rfl := hop <;> cases h <;> rfl

theorem fields_of_mem_plainOps (op : BitVec 8) (i : Instr) (h : (op, i) ∈ plainOps) : i.fields = ⟨op, 0, 0, 0⟩ :=
  (by decide : ∀ p ∈ plainOps, p.2.fields = ⟨p.1, 0, 0, 0⟩) (op, i) h

theorem mem_plainOps_of_lookup (op : BitVec 8) (i : Instr) (h : plainOps.lookup op = some i) : (op, i) ∈ plainOps := by
  obtain ⟨before, after, found, -⟩ := List.lookup_eq_some_iff.1 h
  rw [found]
  exact List.mem_append_right before List.mem_cons_self

/-- A word that decodes to a command has that command's fields: each accepting branch of R139 has tested all four. -/
theorem ofWord_of_decode (c : Word) (i : Instr) (h : decode c = .ok i) : CmdFields.ofWord c = i.fields := by
  unfold decode at h
  generalize CmdFields.ofWord c = f at h ⊢
  obtain ⟨op, codec, z, rsv⟩ := f
  dsimp only at h
  split_ifs at h with hrsv composed hz hcodec rekey hz hz
  all_goals obtain rfl := not_not.1 hrsv
  · obtain rfl := (BitVec.eq_zero_or_eq_one z).resolve_right hz
    exact (fields_of_composedOp op codec i composed h).symm
  · cases h
    rw [rekey, hz, not_not.1 hcodec]
    rfl
  · cases h
    rw [rekey, (BitVec.eq_zero_or_eq_one z).resolve_right hz, not_not.1 hcodec]
    rfl
  · obtain rfl := (BitVec.eq_zero_or_eq_one z).resolve_right hz
    obtain rfl := not_not.1 hcodec
    split at h
    · next j found =>
      obtain rfl := Except.ok.inj h
      exact (fields_of_mem_plainOps op j (mem_plainOps_of_lookup op j found)).symm
    · cases h

/-! ### Words and commands -/

theorem decode_encode (i : Instr) : decode (encode i) = .ok i := by
  cases i <;> rfl

/-- The decoder accepts the encoder's words alone. -/
theorem decode_eq_ok_iff (c : Word) (i : Instr) : decode c = .ok i ↔ c = encode i := by
  constructor
  · intro h
    rw [encode, ← ofWord_of_decode c i h, CmdFields.toWord_ofWord]
  · rintro rfl
    exact decode_encode i

/-- Settles O4: the rows of the opcode map are the commands with the encoder's words. -/
theorem decodeAcceptsExactlyTheSeventeenWords : Obligations.DecodeAcceptsExactlyTheSeventeenWords := by
  refine ⟨fun c i => (decode_eq_ok_iff c i).trans ?_, decode_encode⟩
  cases i <;> simp [encode, Instr.fields, CmdFields.toWord]

/-- Settles O3: each word is the encoder's. -/
theorem wordsOfTheOpcodeMapDecode : Obligations.WordsOfTheOpcodeMapDecode :=
  ⟨decode_encode .enc, decode_encode .dec, decode_encode .rekey, decode_encode .rekeyZ, decode_encode .loadsched,
    decode_encode .hdec, decode_encode .renc, decode_encode .pdec, decode_encode .gencR, decode_encode .gdecP⟩

end Sys2Proof
end

section
/-! The frame of a command's completion: which registers each command leaves unchanged (30_encoding.md R136). -/

namespace Sys2Proof.Machine

/-- What a command can write, by family: a block or a direct ECC result to DOUT, bytes to PBUF, or a commit, of which REKEY
alone writes KEY_WR and LOADSCHED alone SCHED_WR. -/
theorem writes_cases (i : Instr) (s u : State) (h : Writes i s u) :
    (i ∈ ([.enc, .dec, .gdecH, .gdecR, .gdecP] : List Instr) ∧ ∃ y, u = writeDout y s) ∨
    (i ∈ ([.henc, .hdec, .renc, .rdec, .penc, .pdec] : List Instr) ∧ ∃ v, u = writeDoutLow v s) ∨
    (i ∈ ([.gencH, .gencR, .gencP] : List Instr) ∧
      ∃ (L : Nat) (b : Vector Byte L), (i ≠ .gencR → L = 16) ∧ u = writePbuf b s) ∨
    (i ∈ ([.rekey, .rekeyZ, .loadsched] : List Instr) ∧
      ∃ kw sw k r o, (i ≠ .rekey → kw = s.keyWr) ∧ (i ≠ .loadsched → sw = s.schedWr) ∧
        u = commit k r o { s with keyWr := kw, schedWr := sw }) := by
  cases i with
  | enc | dec => exact .inl ⟨by decide, _, h⟩
  | gdecH | gdecR | gdecP =>
    obtain ⟨ct, hu⟩ := h
    exact .inl ⟨by decide, _, hu⟩
  | henc | hdec | renc | penc => exact .inr (.inl ⟨by decide, _, h⟩)
  | rdec | pdec =>
    obtain ⟨x, hu⟩ := h
    exact .inr (.inl ⟨by decide, _, hu⟩)
  | gencH | gencR | gencP => exact .inr (.inr (.inl ⟨by decide, _, _, by simp, h⟩))
  | rekey | rekeyZ | loadsched => exact .inr (.inr (.inr ⟨by decide, _, _, _, _, _, by simp, by simp, h⟩))

/-- Only REKEY writes KEY_WR, only LOADSCHED SCHED_WR (10_state.md R45, R46). -/
theorem writes_keep_written_masks (i : Instr) (s u : State) (h : Writes i s u) :
    (i ≠ .rekey → u.keyWr = s.keyWr) ∧ (i ≠ .loadsched → u.schedWr = s.schedWr) := by
  obtain ⟨-, y, rfl⟩ | ⟨-, v, rfl⟩ | ⟨-, L, b, -, rfl⟩ | ⟨-, kw, sw, k, r, o, hkw, hsw, rfl⟩ := writes_cases i s u h
  · exact ⟨fun _ => rfl, fun _ => rfl⟩
  · exact ⟨fun _ => rfl, fun _ => rfl⟩
  · exact ⟨fun _ => writePbuf_keyWr s b, fun _ => writePbuf_schedWr s b⟩
  · exact ⟨hkw, hsw⟩

/-- Only GENC.c writes PBUF (R49). -/
theorem writes_keep_pbuf (i : Instr) (s u : State) (hi : i ∉ ([.gencH, .gencR, .gencP] : List Instr))
    (h : Writes i s u) : u.pbuf = s.pbuf := by
  obtain ⟨-, y, rfl⟩ | ⟨-, v, rfl⟩ | ⟨genc, -⟩ | ⟨-, kw, sw, k, r, o, -, -, rfl⟩ := writes_cases i s u h
  · rfl
  · rfl
  · exact absurd genc hi
  · rfl

/-- Only GENC.R writes PBUF above byte 15: the other two frames are 16 bytes (43_composition.md R281). -/
theorem writes_keep_pbuf_tail (i : Instr) (s u : State) (hi : i ≠ .gencR) (h : Writes i s u) (k : Nat) (hk : k < 24)
    (tail : 16 ≤ k) : u.pbuf[k] = s.pbuf[k] := by
  obtain ⟨-, y, rfl⟩ | ⟨-, v, rfl⟩ | ⟨-, L, b, hL, rfl⟩ | ⟨-, kw, sw, k, r, o, -, -, rfl⟩ := writes_cases i s u h
  · rfl
  · rfl
  · obtain rfl := hL hi
    rw [writePbuf_get b s k hk, dif_neg (by omega)]
  · rfl

/-- The commits and GENC.c leave DOUT (R43). -/
theorem writes_keep_dout (i : Instr) (s u : State)
    (hi : i ∈ ([.rekey, .rekeyZ, .loadsched, .gencH, .gencR, .gencP] : List Instr)) (h : Writes i s u) :
    u.doutHi = s.doutHi ∧ u.doutLo = s.doutLo := by
  obtain ⟨crypt, -⟩ | ⟨ecc, -⟩ | ⟨-, L, b, -, rfl⟩ | ⟨-, kw, sw, k, r, o, -, -, rfl⟩ := writes_cases i s u h
  · exact absurd crypt ((by decide : ∀ i ∈ ([.rekey, .rekeyZ, .loadsched, .gencH, .gencR, .gencP] : List Instr),
      i ∉ ([.enc, .dec, .gdecH, .gdecR, .gdecP] : List Instr)) i hi)
  · exact absurd ecc ((by decide : ∀ i ∈ ([.rekey, .rekeyZ, .loadsched, .gencH, .gencR, .gencP] : List Instr),
      i ∉ ([.henc, .hdec, .renc, .rdec, .penc, .pdec] : List Instr)) i hi)
  · exact ⟨writePbuf_doutHi s b, writePbuf_doutLo s b⟩
  · exact ⟨rfl, rfl⟩

theorem isCommit_eq_false_of_not_mem (i : Instr) (hi : i ∉ ([.rekey, .rekeyZ, .loadsched] : List Instr)) :
    isCommit i = false := by
  simpa [isCommit, and_assoc] using hi

/-- Settles O52: an error entry writes its report alone, and a success keeps what its writes keep. -/
theorem commandsWriteOnlyTheirRegisters : Obligations.CommandsWriteOnlyTheirRegisters := by
  intro i s t h
  obtain ⟨e, m, f, -, rfl⟩ | ⟨u, hw, rfl⟩ := exec_cases i s t h
  · exact ⟨rfl, rfl, rfl, rfl, rfl, rfl, rfl, fun _ => rfl, fun _ => rfl, fun _ => ⟨rfl, rfl, rfl, rfl, rfl⟩,
      fun _ => rfl, fun _ _ _ _ => rfl, fun _ => ⟨rfl, rfl⟩⟩
  · obtain ⟨hdinHi, hdinLo, hkey, hsched, hsbox, hwdrop, hport⟩ := writes_keep_operands i s u hw
    obtain ⟨hkeyWr, hschedWr⟩ := writes_keep_written_masks i s u hw
    exact ⟨hdinHi, hdinLo, hkey, hsched, hsbox, hwdrop, hport, hkeyWr, hschedWr,
      fun hi => writes_keep_stores i s u (isCommit_eq_false_of_not_mem i hi) hw,
      fun hi => writes_keep_pbuf i s u hi hw, fun hi => writes_keep_pbuf_tail i s u hi hw,
      fun hi => writes_keep_dout i s u hi hw⟩

end Sys2Proof.Machine
end

section
/-! `EXEC` in a host program (30_encoding.md R142): the polls of a busy CFE, and the completion of the command. -/

namespace Sys2Proof.Machine

/-- A completion reads neither the pending word nor BUSY, and writes both. -/
theorem exec_acceptCommand (w : Word) (i : Instr) (s : State) : exec i (acceptCommand w s) = exec i s := by
  cases i <;> rfl

theorem exec_busy (i : Instr) (s t : State) (h : exec i s = .next t) : t.status.busy = false := by
  obtain ⟨e, m, f, -, rfl⟩ | ⟨u, -, rfl⟩ := exec_cases i s t h
  · exact completedErr_busy s e.code m f
  · exact completedOk_busy u

theorem Status.word_busy (st : Status) : st.word.getLsbD 0 = st.busy := st.word_fields.1

/-- A poll of STATUS is one step, and answers the STATUS word (20_memory.md R107). -/
theorem step_poll (s : State) (rest : List Turn) (replies : List Word) :
    step { s with port := { turns := .read Reg.status.offset 4 :: rest, replies := replies } } =
      .next { s with port := { turns := rest, replies := s.status.word :: replies } } := by
  refine (step_read_aligned Reg.status.offset { s with port := { turns := rest, replies := replies } } rest
    (by decide)).trans ?_
  rw [busRead_offset]
  rfl

/-- A run through polls: each answers the same STATUS word. -/
theorem run_polls (polls n : Nat) (s : State) (rest : List Turn) (replies : List Word) :
    core.run (polls + n) { s with port :=
        { turns := List.replicate polls (.read Reg.status.offset 4) ++ rest, replies := replies } } =
      core.run n { s with port := { turns := rest, replies := List.replicate polls s.status.word ++ replies } } := by
  induction polls generalizing replies with
  | zero => rw [Nat.zero_add, List.replicate_zero, List.replicate_zero, List.nil_append, List.nil_append]
  | succ polls ih =>
    rw [List.replicate_succ, List.cons_append, Nat.add_right_comm, core_run_succ _ _ _ (step_poll s _ replies), ih,
      List.replicate_succ', List.append_assoc]
    rfl

/-- The engine's turn on an accepted command is that command's completion (R110). -/
theorem step_engine_accepted (i : Instr) (s : State) (rest : List Turn) (replies : List Word) :
    step (acceptCommand (encode i) { s with port := { turns := .engine :: rest, replies := replies } }) =
      exec i { s with port := { turns := rest, replies := replies } } := by
  rw [step_of_turns_cons _ .engine rest rfl, takeTurn_engine, engineTurn_of_decode _ (encode i) i rfl (decode_encode i)]
  exact exec_acceptCommand (encode i) i { s with port := { turns := rest, replies := replies } }

/-- A completion is the same whatever the port holds, and leaves the port. -/
theorem exec_with_port (i : Instr) (s : State) : ∃ t, exec i s = .next t ∧
    ∀ p, exec i { s with port := p } = .next { t with port := p } := by
  obtain ⟨t, ht, -⟩ := carries_noteAccesses_exec false s.port i s
  refine ⟨t, ht, fun p => ?_⟩
  obtain ⟨u, hu, later⟩ := carries_noteAccesses_exec false p i s
  obtain rfl := Host.Outcome.next.inj (ht.symm.trans hu)
  simpa only [noteAccesses_false] using later

/-- `EXEC`'s first access is accepted, and its polls before the completion answer STATUS with the command pending. -/
theorem run_execCmd_polls (i : Instr) (polls n : Nat) (s : State) (rest : List Turn) (idle : s.status.busy = false) :
    core.run (polls + n + 1) (withProgram (execCmd i polls ++ rest) s) =
      core.run n (acceptCommand (encode i) { s with port :=
        { turns := .engine :: .read Reg.status.offset 4 :: rest
          replies := List.replicate polls (acceptCommand (encode i) s).status.word ++ s.port.replies } }) := by
  have program : execCmd i polls ++ rest = .write Reg.cmd.offset 4 (encode i) ::
      (List.replicate polls (.read Reg.status.offset 4) ++ .engine :: .read Reg.status.offset 4 :: rest) := by
    simp only [execCmd, cmd, wait, List.append_assoc, List.cons_append, List.nil_append]
    rfl
  rw [withProgram_eq, program, core_run_succ _ _ _ (step_write_idle .cmd (encode i) s _ idle)]
  exact run_polls polls n (acceptCommand (encode i) s) _ s.port.replies

/-- Settles O18: the command's word is accepted, each poll answers STATUS with BUSY = 1, the engine's turn is the command's
completion whatever the port holds, and the last poll answers the STATUS it left. -/
theorem execPollsUntilTheCommandCompletes : Obligations.ExecPollsUntilTheCommandCompletes := by
  intro s i polls rest idle
  obtain ⟨t, now, later⟩ := exec_with_port i { s with port := { turns := rest, replies := s.port.replies } }
  refine ⟨t, List.replicate polls (acceptCommand (encode i) s).status.word, t.status.word, now, List.length_replicate,
    fun v hv => ?_, rfl, (Status.word_busy t.status).trans (exec_busy i _ t now), ?_⟩
  · rw [List.eq_of_mem_replicate hv, Status.word_busy, acceptCommand_busy]
  · refine (run_execCmd_polls i polls 2 s rest idle).trans ?_
    rw [core_run_succ _ _ _ ((step_engine_accepted i s _ _).trans (later _))]
    exact core_run_succ 0 _ _ (step_poll t rest _)

end Sys2Proof.Machine
end

section
/-! The block cipher (40_cipher.md): the lanes of the substitution (R164), the rounds as a sequence of halves (R168, R169),
what ENC and DEC do with them (R175, R176), and that the rounds under the reversed keys undo the rounds (R170). -/

namespace Sys2Proof.Machine

/-! ### The substitution -/

/-- The lowest lane of a concatenation is the nibble appended last. -/
theorem lane_append_zero {w : Nat} (x : BitVec w) (n : Nibble) : (x ++ n).extractLsb' (4 * 0) 4 = n :=
  BitVec.extractLsb'_append_eq_right

/-- The lanes above an appended nibble are those of the rest. -/
theorem lane_append_succ {w : Nat} (x : BitVec w) (n : Nibble) (i : Nat) :
    (x ++ n).extractLsb' (4 * (i + 1)) 4 = x.extractLsb' (4 * i) 4 :=
  BitVec.extractLsb'_append_eq_of_le (Nat.le_mul_of_pos_right 4 (Nat.succ_pos i))

/-- Lane i of the substitution is row i's entry for lane i of the operand: it is the lowest lane once the i lanes appended
after it are dropped, and lane 7 is then alone. -/
theorem tsub_lane (sbox : Vector Nibble 128) (a : Word) (i : Fin 8) :
    (tsub sbox a).extractLsb' (4 * i.val) 4 = sboxLookup sbox i (a.extractLsb' (4 * i.val) 4) := by
  fin_cases i
  all_goals repeat refine (lane_append_succ ..).trans ?_
  iterate 7 exact lane_append_zero ..
  exact BitVec.extractLsb'_eq_self

/-- Settles O19: the entry is at the row of the lane and the column of its value. -/
theorem tsubSubstitutesLaneByLane : Obligations.TsubSubstitutesLaneByLane := fun sbox a i h =>
  ⟨⟨16 * i + (a.extractLsb' (4 * i) 4).toNat, by omega⟩, rfl, tsub_lane sbox a ⟨i, h⟩⟩

/-! ### The rounds -/

theorem rounds_cons (sbox : Vector Nibble 128) (k : Word) (ks : List Word) (hl : Word × Word) :
    rounds sbox (k :: ks) hl = rounds sbox ks (ground sbox k hl) := rfl

theorem rounds_append_singleton (sbox : Vector Nibble 128) (ks : List Word) (k : Word) (hl : Word × Word) :
    rounds sbox (ks ++ [k]) hl = ground sbox k (rounds sbox ks hl) :=
  List.foldl_concat ..

/-- A sequence of halves that applies one round after the other ends in the result of the rounds (R168, R169). -/
theorem rounds_of_sequence (sbox : Vector Nibble 128) (ks : List Word) (hl : Nat → Word × Word)
    (next : ∀ r (h : r < ks.length), hl (r + 1) = ground sbox ks[r] (hl r)) :
    rounds sbox ks (hl 0) = hl ks.length := by
  induction ks generalizing hl with
  | nil => rfl
  | cons k ks ih =>
    have first : hl 1 = ground sbox k (hl 0) := next 0 (Nat.succ_pos _)
    rw [rounds_cons, ← first]
    exact ih (fun r => hl (r + 1)) fun r h => next (r + 1) (Nat.succ_lt_succ h)

/-- A round undoes itself on swapped halves: both apply the same `gfun` to the half that stayed (R166). -/
theorem ground_swap_ground (sbox : Vector Nibble 128) (k : Word) (hl : Word × Word) :
    ground sbox k (ground sbox k hl).swap = hl.swap := by
  simp [ground, Prod.swap]

/-- The rounds under the reversed keys undo the rounds, on swapped halves (R170). -/
theorem rounds_reverse_swap (sbox : Vector Nibble 128) (ks : List Word) (hl : Word × Word) :
    rounds sbox ks.reverse (rounds sbox ks hl).swap = hl.swap := by
  induction ks generalizing hl with
  | nil => rfl
  | cons k ks ih => rw [List.reverse_cons, rounds_append_singleton, rounds_cons, ih, ground_swap_ground]

/-! ### Encrypt and Decrypt -/

theorem split64_feistel (sbox : Vector Nibble 128) (ks : List Word) (x : Block) :
    split64 (feistel sbox ks x) = (rounds sbox ks (split64 x)).swap :=
  split64_join64 _ _

theorem split64_injective {x y : Block} (h : split64 x = split64 y) : x = y := by
  rw [← join64_split64 x, h, join64_split64]

theorem feistel_reverse_feistel (sbox : Vector Nibble 128) (ks : List Word) (x : Block) :
    feistel sbox ks.reverse (feistel sbox ks x) = x := by
  apply split64_injective
  rw [split64_feistel, split64_feistel, rounds_reverse_swap, Prod.swap_swap]

/-- Settles O23: Encrypt and Decrypt are the same rounds under mutually reversed keys. -/
theorem decryptAndEncryptAreInverse : Obligations.DecryptAndEncryptAreInverse := fun sbox rk x => by
  refine ⟨feistel_reverse_feistel sbox rk.toList x, ?_⟩
  have h := feistel_reverse_feistel sbox rk.toList.reverse x
  rwa [List.reverse_reverse] at h

/-! ### ENC and DEC -/

/-- The common shape of ENC and DEC (R175, R176): DIN through the rounds under `ks`, once a schedule is committed. -/
def cryptDin (ks : List Word) (s : State) : Result :=
  if s.status.kv then finish (writeDout (feistel s.sboxAct ks (din s)) s)
  else raiseError .construction 0 0 s

theorem exec_enc_eq (s : State) : exec .enc s = cryptDin s.rkey.toList s := rfl

theorem exec_dec_eq (s : State) : exec .dec s = cryptDin s.rkey.toList.reverse s := rfl

/-- With a committed schedule DOUT is the result of the rounds with the halves swapped, and nothing else is written. -/
theorem cryptDin_ready (ks : List Word) (s : State) (out : Word × Word) (h : s.status.kv = true)
    (hout : rounds s.sboxAct ks (s.dinHi, s.dinLo) = out) :
    cryptDin ks s = .next { completedOk s with doutHi := out.2, doutLo := out.1 } := by
  rw [cryptDin, if_pos h, writeDout, split64_feistel, split64_din, hout]
  rfl

theorem cryptDin_unready (ks : List Word) (s : State) (h : s.status.kv = false) :
    cryptDin ks s = .next (completedErr 2 0 0 s) := by
  rw [cryptDin, if_neg (Bool.eq_false_iff.1 h)]
  rfl

/-- The rules of R175 and R176, for a sequence of halves that applies the 32 round keys `ks` one after the other. -/
theorem cryptDin_of_sequence (ks : List Word) (s : State) (hl : Nat → Word × Word) (length : ks.length = 32)
    (start : hl 0 = (s.dinHi, s.dinLo))
    (next : ∀ r (h : r < ks.length), hl (r + 1) = ground s.sboxAct ks[r] (hl r)) :
    (s.status.kv = true →
      cryptDin ks s = .next { completedOk s with doutHi := (hl 32).2, doutLo := (hl 32).1 }) ∧
    (s.status.kv = false → cryptDin ks s = .next (completedErr 2 0 0 s)) := by
  refine ⟨fun kv => cryptDin_ready ks s (hl 32) kv ?_, cryptDin_unready ks s⟩
  rw [← start, rounds_of_sequence s.sboxAct ks hl next, length]

/-- Settles O20: round r of the ascending list takes RKEY(r). -/
theorem encRunsTheRoundsAscending : Obligations.EncRunsTheRoundsAscending := by
  refine ⟨decode_encode .enc, fun s hl start next => ?_⟩
  rw [exec_enc_eq]
  refine cryptDin_of_sequence s.rkey.toList s hl Vector.length_toList start fun r h => ?_
  rw [Vector.getElem_toList]
  exact next r (by simpa using h)

/-- Settles O21: round r of the descending list takes RKEY(31 - r). -/
theorem decRunsTheRoundsDescending : Obligations.DecRunsTheRoundsDescending := by
  refine ⟨decode_encode .dec, fun s hl start next => ?_⟩
  rw [exec_dec_eq]
  refine cryptDin_of_sequence s.rkey.toList.reverse s hl (by simp) start fun r h => ?_
  have key : s.rkey.toList.reverse[r] = s.rkey[31 - r] := by simp [List.getElem_reverse]
  rw [key]
  exact next r (by simpa using h)

/-- Settles O24: DEC's rounds start from ENC's swapped result, so they end in the halves of the block, swapped. -/
theorem decOfAnEncResultReturnsTheBlock : Obligations.DecOfAnEncResultReturnsTheBlock := by
  intro s kv
  refine ⟨_, (exec_enc_eq s).trans (cryptDin_ready _ s _ kv rfl), fun u ukv hrk hsbox hhi hlo => ?_⟩
  refine (exec_dec_eq u).trans (cryptDin_ready _ u (s.dinLo, s.dinHi) ukv ?_)
  rw [hrk, hsbox, hhi, hlo]
  exact rounds_reverse_swap s.sboxAct s.rkey.toList (s.dinHi, s.dinLo)

/-! ### The known answer -/

/-- The key of §8.2 of the source (95_test_vectors.md L1-8.2). -/
def sourceKey : Vector Word 8 :=
  #v[0xffeeddcc, 0xbbaa9988, 0x77665544, 0x33221100, 0xf0f1f2f3, 0xf4f5f6f7, 0xf8f9fafb, 0xfcfdfeff]

/-- The last halves of the source's trace (V1, V3). -/
theorem rounds_sourceKey :
    rounds defaultSbox (sched sourceKey).toList (0xfedcba98, 0x76543210) = (0xc2d8ca3d, 0x4ee901e5) := by
  decide +kernel

/-- Settles O22: the trace is evaluated for ENC; DEC's rounds undo it. -/
theorem knownAnswerUnderTheSourceKey : Obligations.KnownAnswerUnderTheSourceKey := by
  intro s kv hsbox hrk
  have enc : rounds s.sboxAct s.rkey.toList (0xfedcba98, 0x76543210) = (0xc2d8ca3d, 0x4ee901e5) := by
    rw [hsbox, hrk]
    exact rounds_sourceKey
  have dec : rounds s.sboxAct s.rkey.toList.reverse (0x4ee901e5, 0xc2d8ca3d) = (0x76543210, 0xfedcba98) := by
    have undone := rounds_reverse_swap s.sboxAct s.rkey.toList (0xfedcba98, 0x76543210)
    rwa [enc] at undone
  exact ⟨(exec_enc_eq _).trans (cryptDin_ready _ { s with dinHi := 0xfedcba98, dinLo := 0x76543210 } _ kv enc),
    (exec_dec_eq _).trans (cryptDin_ready _ { s with dinHi := 0x4ee901e5, dinLo := 0xc2d8ca3d } _ kv dec)⟩

end Sys2Proof.Machine
end

section
/-! Construction and re-key (41_configuration.md): what each commit command writes (R201, R205, R208), that REKEY's result is
determined by the staged key and S-box (R209), and that the active stores change at a commit or by reset alone (R202). -/

namespace Sys2Proof.Machine

/-! ### The commit commands -/

/-- With every key word staged REKEY commits the staged key, its schedule and the staged S-box. -/
theorem exec_rekey_complete (s : State) (h : s.keyWr = 0xFF) :
    exec .rekey s = .next (completedOk (commit s.keyStg (sched s.keyStg) false { s with keyWr := 0 })) := by
  have complete : keyComplete s.keyWr = true := beq_iff_eq.2 h
  simp only [exec, execRekey, complete, if_true, finish_eq]

theorem exec_rekey_incomplete (s : State) (h : s.keyWr ≠ 0xFF) : exec .rekey s = .next (completedErr 2 0 0 s) := by
  have incomplete : keyComplete s.keyWr = false := beq_eq_false_iff_ne.2 h
  simp only [exec, execRekey, incomplete, Bool.false_eq_true, if_false, raiseError_eq, ErrCode.code]

/-- With every schedule word staged LOADSCHED commits the override beside the all-zero key. -/
theorem exec_loadsched_complete (s : State) (h : s.schedWr = 0xFFFFFFFF) :
    exec .loadsched s =
      .next (completedOk (commit (Vector.replicate 8 0) s.schedStg true { s with schedWr := 0 })) := by
  have complete : schedComplete s.schedWr = true := beq_iff_eq.2 h
  simp only [exec, execLoadsched, complete, if_true, finish_eq]

theorem exec_loadsched_incomplete (s : State) (h : s.schedWr ≠ 0xFFFFFFFF) :
    exec .loadsched s = .next (completedErr 2 0 0 s) := by
  have incomplete : schedComplete s.schedWr = false := beq_eq_false_iff_ne.2 h
  simp only [exec, execLoadsched, incomplete, Bool.false_eq_true, if_false, raiseError_eq, ErrCode.code]

/-- Settles O25: the committed schedule is `sched` of the staged key, read off by rounds (40_cipher.md R167). -/
theorem rekeyCommitsKeyScheduleAndSbox : Obligations.RekeyCommitsKeyScheduleAndSbox :=
  ⟨decode_encode .rekey, fun s =>
    ⟨fun complete => ⟨sched s.keyStg, sched_low s.keyStg, sched_high s.keyStg, exec_rekey_complete s complete⟩,
      exec_rekey_incomplete s⟩⟩

/-- Settles O26: REKEY.Z has no condition, and the schedule it commits is the zero key's. -/
theorem rekeyZCommitsTheZeroKey : Obligations.RekeyZCommitsTheZeroKey :=
  ⟨decode_encode .rekeyZ, fun s => finish_eq (commit (Vector.replicate 8 0) (Vector.replicate 32 0) false s), sched_zero⟩

/-- Settles O27, by the two values of the SCHED_WR test. -/
theorem loadschedCommitsTheOverride : Obligations.LoadschedCommitsTheOverride :=
  ⟨decode_encode .loadsched, fun s => ⟨exec_loadsched_complete s, exec_loadsched_incomplete s⟩⟩

/-- Settles O28: after REKEY the rounds of ENC read the two staged stores and the block alone. -/
theorem rekeyIsDeterminedByKeyAndSbox : Obligations.RekeyIsDeterminedByKeyAndSbox := by
  intro s s' complete complete' hkey hsbox
  refine ⟨_, _, exec_rekey_complete s complete, exec_rekey_complete s' complete', congrArg sched hkey, hsbox,
    fun hi lo => ?_⟩
  have out : rounds s.sboxStg (sched s.keyStg).toList (hi, lo) = rounds s'.sboxStg (sched s'.keyStg).toList (hi, lo) := by
    rw [hkey, hsbox]
  exact ⟨_, _, (exec_enc_eq _).trans (cryptDin_ready _ _ _ rfl out), (exec_enc_eq _).trans (cryptDin_ready _ _ _ rfl rfl),
    rfl, rfl, rfl⟩

/-! ### When the active stores change -/

/-- The active key, schedule and S-box, KV and SO are the same in `s` and `t`. -/
def StoresKept (s t : State) : Prop :=
  t.keyAct = s.keyAct ∧ t.rkey = s.rkey ∧ t.sboxAct = s.sboxAct ∧ t.status.kv = s.status.kv ∧ t.status.so = s.status.so

/-- `t` has all the values of the commit that is pending in `s` (R201, R205, R208). -/
def StoresCommitted (s t : State) : Prop :=
  t.status.kv = true ∧ t.sboxAct = s.sboxStg ∧
    ((s.pending = some (encode .rekey) ∧ t.status.so = false ∧ t.keyAct = s.keyStg ∧ t.rkey = sched s.keyStg) ∨
      (s.pending = some (encode .rekeyZ) ∧ t.status.so = false ∧ t.keyAct = Vector.replicate 8 0 ∧
        t.rkey = Vector.replicate 32 0) ∨
      (s.pending = some (encode .loadsched) ∧ t.status.so = true ∧ t.keyAct = Vector.replicate 8 0 ∧
        t.rkey = s.schedStg))

/-- A command's completion leaves the active stores, as every error and every other success does, or it is a commit's. -/
theorem exec_keeps_or_commits (i : Instr) (s t : State) (hp : s.pending = some (encode i)) (h : exec i s = .next t) :
    StoresKept s t ∨ StoresCommitted s t := by
  obtain ⟨e, m, f, -, rfl⟩ | ⟨u, hw, rfl⟩ := exec_cases i s t h
  · exact .inl ⟨rfl, rfl, rfl, rfl, rfl⟩
  · cases hi : isCommit i with
    | false => exact .inl (writes_keep_stores i s u hi hw)
    | true =>
      obtain ⟨key, rk, so, v, rfl, hsbox, hcommit⟩ := writes_commit i s u hi hw
      refine .inr ⟨rfl, hsbox, ?_⟩
      obtain ⟨rfl, values⟩ | ⟨rfl, values⟩ | ⟨rfl, values⟩ := hcommit
      · exact .inl ⟨hp, values⟩
      · exact .inr (.inl ⟨hp, values⟩)
      · exact .inr (.inr ⟨hp, values⟩)

/-- The engine's turn leaves the active stores when idle or at an illegal word; at a legal one it is the completion. -/
theorem engineTurn_keeps_or_commits (s t : State) (h : engineTurn s = .next t) :
    StoresKept s t ∨ StoresCommitted s t := by
  obtain ⟨-, idle⟩ | ⟨w, i, hp, hd, legal⟩ | ⟨w, e, -, -, illegal⟩ := engineTurn_cases s
  · obtain rfl := Host.Outcome.next.inj (idle.symm.trans h)
    exact .inl ⟨rfl, rfl, rfl, rfl, rfl⟩
  · obtain rfl := (decode_eq_ok_iff w i).1 hd
    exact exec_keeps_or_commits i s t hp (legal.symm.trans h)
  · obtain rfl := Host.Outcome.next.inj (illegal.symm.trans h)
    exact .inl ⟨rfl, rfl, rfl, rfl, rfl⟩

/-- The active stores are read-only to the host (20_memory.md R103). -/
theorem busWrite_keeps_stores (off : Offset) (v : Word) (s : State) : StoresKept s (busWrite off v s) := by
  obtain ⟨-, -, -, hkey, hrk, hsbox, hkv, hso, -, -, -⟩ := busWrite_frame off v s
  exact ⟨hkey, hrk, hsbox, hkv, hso⟩

/-- A turn keeps the active stores, but for a reset and the engine's completion of a commit. -/
theorem takeTurn_keeps_or_commits (turn : Turn) (s t : State) (h : takeTurn turn s = .next t) :
    StoresKept s t ∨ turn = .reset ∨ (turn = .engine ∧ StoresCommitted s t) := by
  obtain ⟨off, _, -, -, rfl⟩ | ⟨off, _, v, -, -, rfl⟩ | ⟨rfl, he⟩ | ⟨hreset, -⟩ := takeTurn_cases turn s t h
  · exact .inl ⟨rfl, rfl, rfl, rfl, rfl⟩
  · exact .inl (busWrite_keeps_stores off v s)
  · exact (engineTurn_keeps_or_commits s t he).imp_right fun committed => .inr ⟨rfl, committed⟩
  · exact .inr (.inl hreset)

/-- Settles O55: the next turn is taken in the state without it, which has the same registers, or the engine moves. -/
theorem activeStoresChangeTogetherAtACommit : Obligations.ActiveStoresChangeTogetherAtACommit := by
  intro s t hstep
  cases hturns : s.port.turns with
  | nil =>
    have moved := engineTurn_keeps_or_commits s t ((step_of_turns_nil s hturns).symm.trans hstep)
    exact moved.imp_right fun committed => .inr ⟨.inl hturns, committed⟩
  | cons turn rest =>
    obtain kept | rfl | ⟨rfl, committed⟩ :=
      takeTurn_keeps_or_commits turn (setTurns rest s) t ((step_of_turns_cons s turn rest hturns).symm.trans hstep)
    · exact .inl kept
    · exact .inr (.inl ⟨rest, rfl⟩)
    · exact .inr (.inr ⟨.inr ⟨rest, hturns⟩, committed⟩)

end Sys2Proof.Machine
end

section
/-! The direct error-correcting commands (42_ecc.md), in the common shape of R230: each writes a word made from DIN_LO
alone to DOUT_LO, or raises UNCORRECTABLE. -/

namespace Sys2Proof.Machine

/-- `x[DOUT_HI] <- 0; x[DOUT_LO] <- v; complete(OK)` where the codec gave `v`, and `raise UNCORRECTABLE()` where it
failed. -/
def eccResult (r : Option Word) (s : State) : Result :=
  match r with
  | some v => .next { completedOk s with doutHi := 0, doutLo := v }
  | none => .next (completedErr 3 0 0 s)

theorem exec_rdec_eq (s : State) : exec .rdec s =
    eccResult ((rDec (s.dinLo.extractLsb' 16 8) (s.dinLo.extractLsb' 8 8) (s.dinLo.extractLsb' 0 8)).map
      (BitVec.setWidth 32)) s := by
  cases h : rDec (s.dinLo.extractLsb' 16 8) (s.dinLo.extractLsb' 8 8) (s.dinLo.extractLsb' 0 8) with
  | some b => exact execRdec_some s b h
  | none => exact execRdec_none s h

theorem exec_pdec_eq (s : State) : exec .pdec s = eccResult ((pDec s.dinLo).map (BitVec.setWidth 32)) s := by
  cases h : pDec s.dinLo with
  | some d => exact execPdec_some s d h
  | none => exact execPdec_none s h

/-- Each of the six commands is a function of DIN_LO that gives a word or fails. -/
theorem exec_ecc_eq (i : Instr) (hi : i ∈ ([.henc, .hdec, .renc, .rdec, .penc, .pdec] : List Instr)) :
    ∃ r : Word → Option Word, ∀ s, exec i s = eccResult (r s.dinLo) s := by
  cases i with
  | henc => exact ⟨fun x => some ((hEnc (x.extractLsb' 0 4)).setWidth 32), fun _ => rfl⟩
  | hdec => exact ⟨fun x => some ((hDec (x.extractLsb' 0 7)).setWidth 32), fun _ => rfl⟩
  | renc => exact ⟨fun x => some ((rEnc (x.extractLsb' 0 8)).setWidth 32), fun _ => rfl⟩
  | rdec => exact ⟨fun x => (rDec (x.extractLsb' 16 8) (x.extractLsb' 8 8) (x.extractLsb' 0 8)).map _, exec_rdec_eq⟩
  | penc => exact ⟨fun x => some (pEnc (x.extractLsb' 0 16)), fun _ => rfl⟩
  | pdec => exact ⟨fun x => (pDec x).map _, exec_pdec_eq⟩
  | _ => exact absurd hi (by decide)

/-- Settles O53: both completions are the same function of DIN_LO, and a failing one keeps DOUT. -/
theorem directEccReadsNoCipherState : Obligations.DirectEccReadsNoCipherState := by
  intro i hi s u hdin hdoutHi hdoutLo
  obtain ⟨r, hr⟩ := exec_ecc_eq i hi
  rw [hr s, hr u, hdin]
  cases r u.dinLo with
  | some v => exact ⟨_, _, rfl, rfl, rfl, rfl, rfl⟩
  | none => exact ⟨_, _, rfl, rfl, hdoutHi, hdoutLo, rfl⟩

end Sys2Proof.Machine
end

section
/-! Hamming(7,4) (42_ecc.md R231 to R237). That HDec gives the only symbol within distance 1 follows from two facts: it
undoes every single flip of a codeword, and no word is further than one flip from the codeword of its own symbol. -/

namespace Sys2Proof.Machine

/-! ### The code -/

/-- All 16 codewords of R232, as words. -/
def hammingCodewords : List Word :=
  [0x00, 0x69, 0x2A, 0x43, 0x4C, 0x25, 0x66, 0x0F, 0x70, 0x19, 0x5A, 0x33, 0x3C, 0x55, 0x16, 0x7F]

theorem hammingCodewords_getElem? : ∀ n : Nibble, hammingCodewords[n.toNat]? = some ((hEnc n).setWidth 32) := by
  decide

theorem hDec_hEnc : ∀ n : Nibble, hDec (hEnc n) = n := by decide

theorem hDec_hEnc_flip : ∀ (n : Nibble) (b : Fin 7), hDec (hEnc n ^^^ (1#7 <<< b.val)) = n := by decide

/-- Every word is within distance 1 of the codeword of its symbol (R235, property 3). -/
theorem popcount_hEnc_hDec_le_one : ∀ c : HWord, popcount (hEnc (hDec c) ^^^ c) ≤ 1 := by decide

/-- A difference of weight at most 1 is no flip or one flip. -/
theorem eq_zero_or_flip_of_popcount_le_one :
    ∀ x : HWord, popcount x ≤ 1 → x = 0 ∨ ∃ b : Fin 7, x = 1#7 <<< b.val := by decide

theorem popcount_two_flips : ∀ a b : Fin 7, a ≠ b → popcount ((1#7 <<< a.val) ^^^ (1#7 <<< b.val)) = 2 := by decide

/-- HDec gives the symbol of every codeword within distance 1. -/
theorem hDec_eq_of_popcount_le_one (m : Nibble) (c : HWord) (h : popcount (hEnc m ^^^ c) ≤ 1) : hDec c = m := by
  have word : c = hEnc m ^^^ (hEnc m ^^^ c) := (xor_cancel_left (hEnc m) c).symm
  obtain equal | ⟨b, flip⟩ := eq_zero_or_flip_of_popcount_le_one (hEnc m ^^^ c) h
  · rw [word, equal, BitVec.ofNat_eq_ofNat, BitVec.xor_zero, hDec_hEnc]
  · rw [word, flip, hDec_hEnc_flip]

/-- The code is perfect (R235, property 3). -/
theorem hDec_unique_within_one (c : HWord) :
    popcount (hEnc (hDec c) ^^^ c) ≤ 1 ∧ ∀ m : Nibble, popcount (hEnc m ^^^ c) ≤ 1 → m = hDec c :=
  ⟨popcount_hEnc_hDec_le_one c, fun m h => (hDec_eq_of_popcount_le_one m c h).symm⟩

/-- Two flips leave the codeword at distance 2, so HDec gives another symbol (R235, property 4). -/
theorem hDec_two_flips_ne (n : Nibble) (a b : Fin 7) (h : a ≠ b) :
    hDec (hEnc n ^^^ (1#7 <<< a.val) ^^^ (1#7 <<< b.val)) ≠ n := by
  intro same
  have near := popcount_hEnc_hDec_le_one (hEnc n ^^^ (1#7 <<< a.val) ^^^ (1#7 <<< b.val))
  rw [same, BitVec.xor_assoc, xor_cancel_left, popcount_two_flips a b h] at near
  exact absurd near (by decide)

/-- Settles O32: the four properties. -/
theorem hammingCorrectsOneErrorAndMiscorrectsTwo : Obligations.HammingCorrectsOneErrorAndMiscorrectsTwo :=
  ⟨hDec_hEnc, hDec_hEnc_flip, fun c => ⟨hDec c, hDec_unique_within_one c⟩, hDec_two_flips_ne⟩

/-! ### HENC and HDEC -/

/-- Settles O30: the codeword is the entry of the table at DIN_LO[3:0]. -/
theorem hencGivesTheCodewordOfTheTable : Obligations.HencGivesTheCodewordOfTheTable := by
  refine ⟨decode_encode .henc, fun s n hn => ⟨(hEnc (dinNibble s)).setWidth 32, ?_, rfl⟩⟩
  have column : (dinNibble s).toNat = n := by rw [hn, dinNibble, BitVec.extractLsb'_toNat, Nat.shiftRight_zero]
  rw [← column]
  exact hammingCodewords_getElem? (dinNibble s)

/-- Settles O31: the symbol is HDec's. -/
theorem hdecGivesTheOnlySymbolWithinDistanceOne : Obligations.HdecGivesTheOnlySymbolWithinDistanceOne := by
  refine ⟨decode_encode .hdec, fun s => ⟨hDec (dinHWord s), ?_⟩⟩
  obtain ⟨near, only⟩ := hDec_unique_within_one (dinHWord s)
  exact ⟨near, only, rfl⟩

end Sys2Proof.Machine
end

section
/-! Repetition(3) (42_ecc.md R240 to R244). The vote is characterised by a condition that is symmetric in the three
bytes: the result is the value that two of them have. -/

namespace Sys2Proof.Machine

/-! ### The vote -/

/-- The vote returns the value that two of the bytes have (R241). -/
theorem rDec_eq_some_iff (a b c v : Byte) :
    rDec a b c = some v ↔ (a = v ∧ b = v) ∨ (a = v ∧ c = v) ∨ (b = v ∧ c = v) := by
  unfold rDec
  split_ifs with first_wins last_two
  · grind
  · grind
  · grind

/-- The vote fails when the bytes differ pairwise, and only then (R241). -/
theorem rDec_eq_none_iff (a b c : Byte) : rDec a b c = none ↔ a ≠ b ∧ a ≠ c ∧ b ≠ c := by
  unfold rDec
  split_ifs with first_wins last_two
  · grind
  · grind
  · grind

theorem rDec_comm_first (a b c : Byte) : rDec a b c = rDec b a c := by
  refine Option.ext fun v => ?_
  rw [rDec_eq_some_iff, rDec_eq_some_iff]
  tauto

theorem rDec_comm_last (a b c : Byte) : rDec a b c = rDec a c b := by
  refine Option.ext fun v => ?_
  rw [rDec_eq_some_iff, rDec_eq_some_iff]
  tauto

/-- Two equal bytes win the vote wherever the third stands. -/
theorem rDec_two_equal (v x : Byte) : rDec x v v = some v ∧ rDec v x v = some v ∧ rDec v v x = some v := by
  simp only [rDec_eq_some_iff, and_self, true_or, or_true]

/-- Byte k of a Repetition codeword, the least significant first, is the symbol. -/
theorem rEnc_byte (b : Byte) : (rEnc b).extractLsb' 16 8 = b ∧ (rEnc b).extractLsb' 8 8 = b ∧
    (rEnc b).extractLsb' 0 8 = b := by
  unfold rEnc
  simp (disch := omega) only [BitVec.extractLsb'_append_eq_of_le, BitVec.extractLsb'_append_eq_of_add_le]
  exact ⟨BitVec.extractLsb'_eq_self, BitVec.extractLsb'_eq_self, BitVec.extractLsb'_eq_self⟩

/-- Settles O35: the condition on the result is symmetric, and the other properties are cases of it. -/
theorem repetitionVoteProperties : Obligations.RepetitionVoteProperties := by
  refine ⟨fun a b c => ⟨rDec_comm_first a b c, rDec_comm_last a b c⟩, fun b => ?_, rDec_two_equal, ?_,
    fun b v _ => rDec_two_equal v b⟩
  · obtain ⟨high, middle, low⟩ := rEnc_byte b
    rw [high, middle, low]
    exact (rDec_two_equal b b).1
  · intro b x y hxy hxb hyb
    simp only [rDec_eq_none_iff]
    exact ⟨⟨hxb.symm, hyb.symm, hxy⟩, ⟨hxb, hxy, hyb.symm⟩, ⟨hxy, hxb, hyb⟩⟩

/-! ### RENC and RDEC -/

/-- A field in which every bit is 0 is 0. -/
theorem extractLsb'_eq_zero {w : Nat} (x : BitVec w) (start len : Nat) (h : ∀ p, start ≤ p → x.getLsbD p = false) :
    x.extractLsb' start len = 0 := by
  refine BitVec.eq_of_getLsbD_eq fun i _ => ?_
  rw [BitVec.getLsbD_extractLsb', h _ (Nat.le_add_right start i), Bool.and_false]
  exact BitVec.getLsbD_zero.symm

/-- Settles O33: the bytes of the codeword, and the zero extension above it. -/
theorem rencRepeatsTheByte : Obligations.RencRepeatsTheByte := by
  refine ⟨decode_encode .renc, fun s => ⟨(rEnc (dinByte s)).setWidth 32, ?_⟩⟩
  obtain ⟨high, middle, low⟩ := rEnc_byte (dinByte s)
  refine ⟨?_, ?_, ?_, extractLsb'_eq_zero _ 24 8 fun p hp => ?_, rfl⟩
  · rw [BitVec.extractLsb'_setWidth_of_le (by decide), low, dinByte]
  · rw [BitVec.extractLsb'_setWidth_of_le (by decide), middle, dinByte]
  · rw [BitVec.extractLsb'_setWidth_of_le (by decide), high, dinByte]
  · rw [BitVec.getLsbD_setWidth, BitVec.getLsbD_of_ge _ _ hp, Bool.and_false]

/-- Settles O34: the three bytes are those of the vote, which two equal ones win wherever they stand. -/
theorem rdecTakesTheMajorityByte : Obligations.RdecTakesTheMajorityByte := by
  refine ⟨decode_encode .rdec, fun s b0 b1 b2 h0 h1 h2 => ?_⟩
  rw [exec_rdec_eq, ← h0, ← h1, ← h2]
  refine ⟨?_, ?_, fun h01 h02 h12 => ?_⟩
  · rintro (rfl | rfl)
    · rw [(rDec_two_equal b0 b2).2.2]
      rfl
    · rw [(rDec_two_equal b0 b1).2.1]
      rfl
  · rintro rfl
    rw [(rDec_two_equal b1 b0).1]
    rfl
  · rw [(rDec_eq_none_iff b0 b1 b2).2 ⟨h01, h02, h12⟩]
    rfl

end Sys2Proof.Machine
end

section
/-! Parity16 (42_ecc.md R250 to R256). A parity bit reads the positions below it alone, so in the finished codeword
each one is the parity of those positions and the syndrome is 0. The syndrome and the data bits are linear in the word, so
whether PDec accepts a corrupted codeword, and which data bits it then flips, is decided by the flipped positions alone. -/

namespace Sys2Proof.Machine

/-! ### The parity of positions [0, k) -/

/-- The one bits of positions [0, k) are those of the word below k. -/
theorem popcount_extractLsb'_zero (c : Word) (k : Nat) :
    popcount (c.extractLsb' 0 k) = (List.range k).countP fun p => c.getLsbD p := by
  refine List.countP_congr fun p hp => ?_
  rw [BitVec.getLsbD_extractLsb', decide_eq_true (List.mem_range.1 hp), Bool.true_and, Nat.zero_add]

/-- One more position adds its bit to the parity. -/
theorem prefixParity_succ (c : Word) (k : Nat) : prefixParity c (k + 1) = (prefixParity c k ^^ c.getLsbD k) := by
  simp only [prefixParity, parity, popcount_extractLsb'_zero, List.range_succ, List.countP_append,
    List.countP_singleton]
  cases c.getLsbD k with
  | false => simp
  | true =>
    rw [if_pos rfl, Bool.xor_true, Bool.eq_iff_iff]
    simp only [beq_iff_eq, Bool.not_eq_true', beq_eq_false_iff_ne]
    omega

/-- The parity of positions [0, k) reads no other position. -/
theorem prefixParity_congr (c x : Word) (k : Nat) (h : ∀ p < k, c.getLsbD p = x.getLsbD p) :
    prefixParity c k = prefixParity x k := by
  induction k with
  | zero => rfl
  | succ k ih =>
    rw [prefixParity_succ, prefixParity_succ, ih fun p hp => h p (Nat.lt_succ_of_lt hp), h k (Nat.lt_succ_self k)]

theorem prefixParity_xor (c x : Word) (k : Nat) :
    prefixParity (c ^^^ x) k = (prefixParity c k ^^ prefixParity x k) := by
  induction k with
  | zero => rfl
  | succ k ih =>
    rw [prefixParity_succ, prefixParity_succ, prefixParity_succ, ih, BitVec.getLsbD_xor]
    simp only [Bool.xor_assoc, Bool.xor_left_comm]

/-! ### The syndrome and the data bits -/

theorem pSyndrome_getLsbD (c : Word) (i : Nat) (h : i < 5) :
    (pSyndrome c).getLsbD i = prefixParity c (2 ^ i + 1) := by
  simp [pSyndrome, h]

/-- The syndrome is 0 when all five checks are (R252). -/
theorem pSyndrome_eq_zero_iff (c : Word) : pSyndrome c = 0 ↔ ∀ i < 5, prefixParity c (2 ^ i + 1) = false := by
  constructor
  · intro h i hi
    rw [← pSyndrome_getLsbD c i hi, h]
    exact BitVec.getLsbD_zero
  · intro h
    refine BitVec.eq_of_getLsbD_eq fun i hi => ?_
    rw [pSyndrome_getLsbD c i hi, h i hi]
    exact BitVec.getLsbD_zero.symm

theorem pSyndrome_xor (c x : Word) : pSyndrome (c ^^^ x) = pSyndrome c ^^^ pSyndrome x := by
  refine BitVec.eq_of_getLsbD_eq fun i hi => ?_
  rw [BitVec.getLsbD_xor, pSyndrome_getLsbD _ i hi, pSyndrome_getLsbD _ i hi, pSyndrome_getLsbD _ i hi,
    prefixParity_xor]

theorem pData_getLsbD (c : Word) (j : Nat) (h : j < 16) : (pData c).getLsbD j = c.getLsbD dataPositions[j] := by
  simp [pData, h]

theorem pData_xor (c x : Word) : pData (c ^^^ x) = pData c ^^^ pData x := by
  refine BitVec.eq_of_getLsbD_eq fun j hj => ?_
  rw [BitVec.getLsbD_xor, pData_getLsbD _ j hj, pData_getLsbD _ j hj, pData_getLsbD _ j hj, BitVec.getLsbD_xor]

/-- A word without its bits 31:21, which PDec does not read (R253). -/
def low21 (c : Word) : Word := (c.extractLsb' 0 21).setWidth 32

theorem low21_getLsbD (c : Word) (p : Nat) (h : p < 21) : (low21 c).getLsbD p = c.getLsbD p := by
  rw [low21, BitVec.getLsbD_setWidth, BitVec.getLsbD_extractLsb', decide_eq_true h, decide_eq_true (by omega : p < 32),
    Bool.true_and, Bool.true_and, Nat.zero_add]

theorem pSyndrome_low21 (c : Word) : pSyndrome (low21 c) = pSyndrome c := by
  refine BitVec.eq_of_getLsbD_eq fun i hi => ?_
  rw [pSyndrome_getLsbD _ i hi, pSyndrome_getLsbD _ i hi]
  refine prefixParity_congr _ _ _ fun p hp => low21_getLsbD c p ?_
  interval_cases i <;> omega

theorem dataPositions_lt : ∀ j (h : j < 16), dataPositions[j] < 21 := by decide

theorem pData_low21 (c : Word) : pData (low21 c) = pData c := by
  refine BitVec.eq_of_getLsbD_eq fun j hj => ?_
  rw [pData_getLsbD _ j hj, pData_getLsbD _ j hj, low21_getLsbD c _ (dataPositions_lt j hj)]

theorem pDec_eq (c : Word) : pDec c = if pSyndrome c = 0 then some (pData c) else none := by
  have unfolded : pDec c = if pSyndrome (low21 c) ≠ 0 then none else some (pData (low21 c)) := rfl
  rw [unfolded, pSyndrome_low21, pData_low21, ite_not]

/-! ### The codeword -/

theorem putBit_getLsbD (c : Word) (p : Nat) (b : Bool) (q : Nat) (h : q < 32) :
    (putBit c p b).getLsbD q = (c.getLsbD q || (decide (q = p) && b)) := by
  cases b with
  | false =>
    have unchanged : putBit c p false = c := by simp [putBit]
    rw [unchanged, Bool.and_false, Bool.or_false]
  | true =>
    rw [Bool.and_true]
    exact getLsbD_or_one_shiftLeft c p q h

/-- Bits placed at the positions of a list of data bits, over a word that is there already. -/
theorem foldl_putBit_getLsbD (d : Half) (l : List (Fin 16)) (c : Word) (p : Nat) (h : p < 32) :
    (l.foldl (fun c j => putBit c dataPositions[j.val] (d.getLsbD j.val)) c).getLsbD p =
      (c.getLsbD p || l.any fun j => decide (p = dataPositions[j.val]) && d.getLsbD j.val) := by
  induction l generalizing c with
  | nil => rw [List.foldl_nil, List.any_nil, Bool.or_false]
  | cons j l ih => rw [List.foldl_cons, ih, putBit_getLsbD _ _ _ _ h, List.any_cons, Bool.or_assoc]

theorem pPlaceData_getLsbD (d : Half) (p : Nat) (h : p < 32) : (pPlaceData d).getLsbD p =
    (List.finRange 16).any fun j => decide (p = dataPositions[j.val]) && d.getLsbD j.val := by
  rw [pPlaceData, foldl_putBit_getLsbD d _ _ p h, BitVec.ofNat_eq_ofNat, BitVec.getLsbD_zero, Bool.false_or]

/-- Where no data bit stands the placed word is 0. -/
theorem pPlaceData_getLsbD_of_no_data (d : Half) (p : Nat) (h : p < 32) (hp : ∀ j : Fin 16, p ≠ dataPositions[j.val]) :
    (pPlaceData d).getLsbD p = false := by
  rw [pPlaceData_getLsbD d p h, List.any_eq_false]
  intro j _
  simp [hp j]

theorem dataPositions_injective : ∀ j k : Fin 16, dataPositions[j.val] = dataPositions[k.val] → j = k := by decide

/-- Data bit j stands at its own position. -/
theorem pPlaceData_getLsbD_dataPositions (d : Half) (j : Nat) (h : j < 16) :
    (pPlaceData d).getLsbD dataPositions[j] = d.getLsbD j := by
  rw [pPlaceData_getLsbD d _ (Nat.lt_trans (dataPositions_lt j h) (by decide)), Bool.eq_iff_iff, List.any_eq_true]
  constructor
  · rintro ⟨k, -, hk⟩
    obtain ⟨same, bit⟩ := Bool.and_eq_true_iff.1 hk
    obtain rfl := dataPositions_injective ⟨j, h⟩ k (of_decide_eq_true same)
    exact bit
  · exact fun bit => ⟨⟨j, h⟩, List.mem_finRange _, Bool.and_eq_true_iff.2 ⟨decide_eq_true rfl, bit⟩⟩

theorem pPlaceParity_getLsbD (c : Word) (i p : Nat) (h : p < 32) :
    (pPlaceParity c i).getLsbD p = (c.getLsbD p || (decide (p = 2 ^ i) && prefixParity c (2 ^ i))) :=
  putBit_getLsbD c (2 ^ i) (prefixParity c (2 ^ i)) p h

theorem pPlaceParity_getLsbD_of_ne (c : Word) (i p : Nat) (h : p < 32) (hp : p ≠ 2 ^ i) :
    (pPlaceParity c i).getLsbD p = c.getLsbD p := by
  rw [pPlaceParity_getLsbD c i p h, decide_eq_false hp, Bool.false_and, Bool.or_false]

/-- The first `n` parity bits leave the other positions. -/
theorem foldl_pPlaceParity_getLsbD (n : Nat) (c : Word) (p : Nat) (h : p < 32) (hp : ∀ i < n, p ≠ 2 ^ i) :
    ((List.range n).foldl pPlaceParity c).getLsbD p = c.getLsbD p := by
  induction n with
  | zero => rfl
  | succ n ih =>
    rw [List.range_succ, List.foldl_concat, pPlaceParity_getLsbD_of_ne _ n p h (hp n (Nat.lt_succ_self n)),
      ih fun i hi => hp i (Nat.lt_succ_of_lt hi)]

/-- Each of the first `n` parity bits is the parity of the positions below it in the finished word: the later parity
bits stand above them (R251, R252). -/
theorem foldl_pPlaceParity_parity (n : Nat) (hn : n ≤ 5) (c : Word) (clear : ∀ i < 5, c.getLsbD (2 ^ i) = false) :
    ∀ i < n, ((List.range n).foldl pPlaceParity c).getLsbD (2 ^ i) =
      prefixParity ((List.range n).foldl pPlaceParity c) (2 ^ i) := by
  induction n with
  | zero => exact fun i hi => absurd hi (Nat.not_lt_zero i)
  | succ n ih =>
    intro i hi
    have inWord : 2 ^ n < 32 := (Nat.pow_lt_pow_iff_right (by decide)).2 hn
    have upTo : 2 ^ i ≤ 2 ^ n := Nat.pow_le_pow_right (by decide) (Nat.le_of_lt_succ hi)
    rw [List.range_succ, List.foldl_concat]
    generalize hx : (List.range n).foldl pPlaceParity c = x at ih ⊢
    have below : prefixParity (pPlaceParity x n) (2 ^ i) = prefixParity x (2 ^ i) :=
      prefixParity_congr _ _ _ fun p hp => pPlaceParity_getLsbD_of_ne x n p (by omega) (by omega)
    rw [below]
    obtain earlier | rfl := Nat.lt_succ_iff_lt_or_eq.1 hi
    · have lower : 2 ^ i < 2 ^ n := (Nat.pow_lt_pow_iff_right (by decide)).2 earlier
      rw [pPlaceParity_getLsbD_of_ne x n _ (by omega) lower.ne, ih (by omega) i earlier]
    · have empty : x.getLsbD (2 ^ i) = false := by
        rw [← hx, foldl_pPlaceParity_getLsbD i c _ inWord fun k hk =>
          ((Nat.pow_lt_pow_iff_right (by decide)).2 hk).ne', clear i (by omega)]
      rw [pPlaceParity_getLsbD x i _ inWord, empty, decide_eq_true rfl, Bool.true_and, Bool.false_or]

/-- The parity positions hold no data (R250). -/
theorem dataPositions_ne_two_pow : ∀ i < 5, ∀ j : Fin 16, 2 ^ i ≠ dataPositions[j.val] := by decide

/-- Parity bit i of a codeword is the parity of the positions below it (R251). -/
theorem pEnc_getLsbD_two_pow (d : Half) (i : Nat) (h : i < 5) :
    (pEnc d).getLsbD (2 ^ i) = prefixParity (pEnc d) (2 ^ i) := by
  refine foldl_pPlaceParity_parity 5 (Nat.le_refl 5) (pPlaceData d) (fun k hk => ?_) i h
  have inWord : 2 ^ k < 32 := (Nat.pow_lt_pow_iff_right (by decide)).2 hk
  exact pPlaceData_getLsbD_of_no_data d _ inWord (dataPositions_ne_two_pow k hk)

/-- Data bit j of a codeword stands at its position (R251). -/
theorem pEnc_getLsbD_dataPositions (d : Half) (j : Nat) (h : j < 16) :
    (pEnc d).getLsbD dataPositions[j] = d.getLsbD j := by
  have inWord : dataPositions[j] < 32 := Nat.lt_trans (dataPositions_lt j h) (by decide)
  refine (foldl_pPlaceParity_getLsbD 5 (pPlaceData d) _ inWord fun i hi => ?_).trans
    (pPlaceData_getLsbD_dataPositions d j h)
  exact (dataPositions_ne_two_pow i hi ⟨j, h⟩).symm

/-- Bits 31:21 of a codeword are 0 (R250). -/
theorem pEnc_getLsbD_of_ge (d : Half) (p : Nat) (h : 21 ≤ p) : (pEnc d).getLsbD p = false := by
  obtain inWord | beyond := Nat.lt_or_ge p 32
  · refine (foldl_pPlaceParity_getLsbD 5 (pPlaceData d) p inWord fun i hi => ?_).trans
      (pPlaceData_getLsbD_of_no_data d p inWord fun j => ?_)
    · have upTo : 2 ^ i ≤ 2 ^ 4 := Nat.pow_le_pow_right (by decide) (Nat.le_of_lt_succ hi)
      omega
    · exact (Nat.lt_of_lt_of_le (dataPositions_lt j.val j.isLt) h).ne'
  · exact BitVec.getLsbD_of_ge _ _ beyond

theorem pData_pEnc (d : Half) : pData (pEnc d) = d := by
  refine BitVec.eq_of_getLsbD_eq fun j hj => ?_
  rw [pData_getLsbD _ j hj, pEnc_getLsbD_dataPositions d j hj]

theorem pSyndrome_pEnc (d : Half) : pSyndrome (pEnc d) = 0 := by
  refine (pSyndrome_eq_zero_iff _).2 fun i hi => ?_
  rw [prefixParity_succ, pEnc_getLsbD_two_pow d i hi, Bool.xor_self]

/-! ### Corrupted codewords -/

theorem pSyndrome_pEnc_xor (d : Half) (x : Word) : pSyndrome (pEnc d ^^^ x) = pSyndrome x := by
  rw [pSyndrome_xor, pSyndrome_pEnc, BitVec.ofNat_eq_ofNat, BitVec.zero_xor]

/-- A codeword with the bits of `x` flipped is accepted when `x` has syndrome 0, with the data bits of `x` flipped. -/
theorem pDec_pEnc_xor (d : Half) (x : Word) :
    pDec (pEnc d ^^^ x) = if pSyndrome x = 0 then some (d ^^^ pData x) else none := by
  rw [pDec_eq, pSyndrome_pEnc_xor, pData_xor, pData_pEnc]

/-- Settles O38: the data bits and the syndrome of a codeword. -/
theorem parityDecodeUndoesEncode : Obligations.ParityDecodeUndoesEncode := fun d => by
  refine ⟨?_, pSyndrome_pEnc d⟩
  rw [pDec_eq, if_pos (pSyndrome_pEnc d), pData_pEnc]

/-- The syndrome of a flip at a position that some parity covers (R254, property 2). -/
theorem pSyndrome_flip : ∀ p ≤ 16, pSyndrome (1#32 <<< p) =
    if p ≤ 1 then 0x1F else if p ≤ 2 then 0x1E else if p ≤ 4 then 0x1C else if p ≤ 8 then 0x18 else 0x10 := by
  decide +kernel

theorem pSyndrome_flip_ne_zero : ∀ p ≤ 16, pSyndrome (1#32 <<< p) ≠ 0 := by decide +kernel

/-- A flip of a data bit that no parity covers (R254, property 3). -/
theorem uncovered_flip : ∀ p ≤ 20, 17 ≤ p → pSyndrome (1#32 <<< p) = 0 ∧ pData (1#32 <<< p) = 1#16 <<< (p - 5) := by
  decide +kernel

/-- Settles O39: the syndromes and data bits of the flips; a word with bits 31:21 alone is 0 to PDec. -/
theorem parityDetectsFlipsUpToPositionSixteen : Obligations.ParityDetectsFlipsUpToPositionSixteen := by
  intro d
  refine ⟨fun p hp => ⟨?_, ?_⟩, fun p low high => ?_, ?_, fun x hx => ?_⟩
  · rw [pDec_pEnc_xor, if_neg (pSyndrome_flip_ne_zero p hp)]
  · rw [pSyndrome_pEnc_xor, pSyndrome_flip p hp]
  · obtain ⟨silent, data⟩ := uncovered_flip p high low
    rw [pDec_pEnc_xor, if_pos silent, data]
  · have silent : pSyndrome 3#32 = 0 := by decide +kernel
    have data : pData 3#32 = 1 := by decide +kernel
    rw [pDec_pEnc_xor, if_pos silent, data]
    rfl
  · have unread : low21 x = 0 := by rw [low21, hx]; rfl
    have silent : pSyndrome x = 0 := by rw [← pSyndrome_low21, unread]; decide +kernel
    have data : pData x = 0 := by rw [← pData_low21, unread]; decide +kernel
    rw [pDec_pEnc_xor, if_pos silent, data, BitVec.ofNat_eq_ofNat, BitVec.xor_zero]

/-! ### PENC and PDEC -/

/-- Settles O36: the bits of the codeword. -/
theorem pencPlacesDataAndPrefixParities : Obligations.PencPlacesDataAndPrefixParities := by
  refine ⟨decode_encode .penc, fun s => ⟨pEnc (dinHalf s), fun j hj => ?_, pEnc_getLsbD_two_pow (dinHalf s),
    extractLsb'_eq_zero _ 21 11 (pEnc_getLsbD_of_ge (dinHalf s)), rfl⟩⟩
  have bit : (dinHalf s).getLsbD j = s.dinLo.getLsbD j := by simp [dinHalf, hj]
  exact (pEnc_getLsbD_dataPositions (dinHalf s) j hj).trans bit

/-- Settles O37: the five parities are the bits of the syndrome. -/
theorem pdecChecksTheFivePrefixParities : Obligations.PdecChecksTheFivePrefixParities := by
  refine ⟨decode_encode .pdec, fun s => ?_⟩
  rw [exec_pdec_eq, pDec_eq]
  refine ⟨fun ⟨i, hi, odd⟩ => ?_, fun even => ⟨pData s.dinLo, fun j hj => pData_getLsbD s.dinLo j hj, ?_⟩⟩
  · have failing : pSyndrome s.dinLo ≠ 0 := fun h =>
      Bool.false_ne_true (((pSyndrome_eq_zero_iff s.dinLo).1 h i hi).symm.trans odd)
    rw [if_neg failing]
    rfl
  · rw [if_pos ((pSyndrome_eq_zero_iff s.dinLo).2 even)]
    rfl

end Sys2Proof.Machine
end

section
/-! The composed commands (43_composition.md): what GENC.c writes to PBUF (R282 to R285), when GDEC.c decrypts and when
it reports failing slots (R290 to R293), that a frame decodes to its ciphertext (R294, R295), and that a slot's failure
depends on its own bytes (R288). -/

namespace Sys2Proof.Machine

/-- Symbol j starts `w * j` bits below the top symbol (R280). -/
theorem symbol_eq_extractLsb' (w : Nat) (ct : Block) (j : Nat) : symbol w ct j = ct.extractLsb' (64 - w - w * j) w := by
  rw [symbol, Nat.mul_succ, Nat.add_comm, Nat.sub_add_eq]

/-! ### GENC.c -/

/-- A composed encode of the ciphertext `ct` writes the frame of `ct` to PBUF, or raises CONSTRUCTION (R282). -/
theorem genc_writes_frame {L : Nat} (frame : Block → Vector Byte L) (s : State) (ct : Block)
    (hct : ct = encrypt s.sboxAct s.rkey (s.dinHi ++ s.dinLo)) :
    (s.status.kv = true → genc frame s = .next { completedOk s with pbuf := (writePbuf (frame ct) s).pbuf }) ∧
    (s.status.kv = false → genc frame s = .next (completedErr 2 0 0 s)) := by
  subst hct
  exact ⟨fun kv => (genc_ready frame s kv).trans rfl, genc_unready frame s⟩

theorem writePbuf_get_of_lt {L : Nat} (b : Vector Byte L) (s : State) (k : Nat) (hk : k < 24) (h : k < L) :
    (writePbuf b s).pbuf[k] = b[k] := by
  rw [writePbuf_get b s k hk, dif_pos h]

theorem writePbuf_get_of_ge {L : Nat} (b : Vector Byte L) (s : State) (k : Nat) (hk : k < 24) (h : L ≤ k) :
    (writePbuf b s).pbuf[k] = s.pbuf[k] := by
  rw [writePbuf_get b s k hk, dif_neg (Nat.not_lt.2 h)]

/-- A composed encode leaves the active stores, and a buffer that begins with the frame of the ciphertext (R282). -/
theorem genc_leaves_frame {L : Nat} (frame : Block → Vector Byte L) (s : State) (kv : s.status.kv = true) :
    ∃ t, genc frame s = .next t ∧ t.rkey = s.rkey ∧ t.sboxAct = s.sboxAct ∧
      ∀ k (h : k < 24) (hL : k < L), t.pbuf[k] = (frame (encrypt s.sboxAct s.rkey (din s)))[k] := by
  refine ⟨_, genc_ready frame s kv, ?_, ?_, fun k h hL => ?_⟩
  · rw [completedOk_rkey, writePbuf_rkey]
  · rw [completedOk_sboxAct, writePbuf_sboxAct]
  · simp only [completedOk_pbuf, writePbuf_get_of_lt _ s k h hL]

/-- The three bytes of group j of a Repetition frame are symbol j (R281). -/
theorem frameR_group (ct : Block) (j : Nat) (h : j < 8) : (frameR ct)[3 * j] = symbol 8 ct j ∧
    (frameR ct)[3 * j + 1] = symbol 8 ct j ∧ (frameR ct)[3 * j + 2] = symbol 8 ct j := by
  rw [frameR_get ct _ (by omega), frameR_get ct _ (by omega), frameR_get ct _ (by omega),
    show 3 * j / 3 = j by omega, show (3 * j + 1) / 3 = j by omega, show (3 * j + 2) / 3 = j by omega]
  exact ⟨rfl, rfl, rfl⟩

/-- The four bytes of slot j of a Parity16 frame are the codeword of symbol j (R281). -/
theorem frameP_word (ct : Block) (j : Nat) (h : j < 4) :
    wordOfBytes (frameP ct)[4 * j] (frameP ct)[4 * j + 1] (frameP ct)[4 * j + 2] (frameP ct)[4 * j + 3] =
      pEnc (symbol 16 ct j) := by
  have byte (k i : Nat) (hi : i < 4) (hk : k = 4 * j + i) :
      (frameP ct)[k] = byteOfWord (pEnc (symbol 16 ct j)) i := by
    rw [frameP_get ct k (by omega), show k / 4 = j by omega, show k % 4 = i by omega]
  rw [byte (4 * j) 0 (by decide) rfl, byte (4 * j + 1) 1 (by decide) rfl, byte (4 * j + 2) 2 (by decide) rfl,
    byte (4 * j + 3) 3 (by decide) rfl, wordOfBytes_byteOfWord]

/-- Settles O40: byte j of the frame is the codeword of symbol j, and the frame is 16 bytes. -/
theorem gencHFramesSixteenNibbles : Obligations.GencHFramesSixteenNibbles := by
  refine ⟨decode_encode .gencH, fun s ct hct => ?_⟩
  obtain ⟨ready, unready⟩ := genc_writes_frame frameH s ct hct
  refine ⟨fun kv => ⟨_, fun j h => ?_, fun k h h' => writePbuf_get_of_ge (frameH ct) s k h' h, ready kv⟩, unready⟩
  rw [writePbuf_get_of_lt (frameH ct) s j (by omega) h, frameH_get ct j h, symbol_eq_extractLsb']

/-- Settles O41: the bytes of group j of the frame are symbol j. -/
theorem gencRFramesEightBytesThrice : Obligations.GencRFramesEightBytesThrice := by
  refine ⟨decode_encode .gencR, fun s ct hct => ?_⟩
  obtain ⟨ready, unready⟩ := genc_writes_frame frameR s ct hct
  refine ⟨fun kv => ⟨_, fun j h => ?_, ready kv⟩, unready⟩
  have written (k : Nat) (hk : k < 24) := writePbuf_get_of_lt (frameR ct) s k hk hk
  rw [written _ (by omega), written _ (by omega), written _ (by omega), ← symbol_eq_extractLsb' 8]
  exact frameR_group ct j h

/-- Settles O42: the bytes of slot j of the frame are the codeword of symbol j, and the frame is 16 bytes. -/
theorem gencPFramesFourWordsBigEndian : Obligations.GencPFramesFourWordsBigEndian := by
  refine ⟨decode_encode .gencP, fun s ct hct => ?_⟩
  obtain ⟨ready, unready⟩ := genc_writes_frame frameP s ct hct
  refine ⟨fun kv => ⟨_, fun j h => ?_, fun k h h' => writePbuf_get_of_ge (frameP ct) s k h' h, ready kv⟩, unready⟩
  have written (k : Nat) (hk : k < 16) := writePbuf_get_of_lt (frameP ct) s k (by omega) hk
  rw [written _ (by omega), written _ (by omega), written _ (by omega), written _ (by omega),
    ← symbol_eq_extractLsb' 16]
  exact frameP_word ct j h

/-! ### GDEC.c -/

/-- Every slot decodes, to the symbol of `ct` that stands there (R287). -/
def DecodesTo {w n : Nat} (res : Vector (Option (BitVec w)) n) (ct : Block) : Prop :=
  ∀ j (h : j < n), res[j] = some (symbol w ct j)

section
variable {w n : Nat} {unframe : Vector Byte 24 → Vector (Option (BitVec w)) n} {s : State}

theorem failMask_of_decodesTo {res : Vector (Option (BitVec w)) n} {ct : Block} (slots : n ≤ 16)
    (h : DecodesTo res ct) : failMask res = 0 :=
  (failMask_eq_zero slots res).2 fun j hj => by rw [h j hj, Option.isSome_some]

theorem joinSymbols_of_decodesTo {res : Vector (Option (BitVec w)) n} {ct : Block} (fill : w * n = 64)
    (h : DecodesTo res ct) : joinSymbols res = ct :=
  block_ext (Nat.pos_of_ne_zero fun zero => by simp [zero] at fill) fill _ _ fun j hj => by
    rw [symbol_joinSymbols fill res j hj, h j hj, Option.getD_some]

/-- Slots that decode to symbols decode to the block joined from these. -/
theorem decodesTo_joinSymbols {res : Vector (Option (BitVec w)) n} (fill : w * n = 64)
    (h : ∀ j (hj : j < n), res[j].isSome = true) : DecodesTo res (joinSymbols res) := fun j hj => by
  obtain ⟨v, hv⟩ := Option.isSome_iff_exists.1 (h j hj)
  rw [symbol_joinSymbols fill res j hj, hv, Option.getD_some]

theorem gdec_of_decodesTo (fill : w * n = 64) (slots : n ≤ 16) (ct : Block) (kv : s.status.kv = true)
    (h : DecodesTo (unframe s.pbuf) ct) :
    gdec unframe s = .next (completedOk (writeDout (decrypt s.sboxAct s.rkey ct) s)) := by
  rw [gdec_decoded unframe s kv (failMask_of_decodesTo slots h), joinSymbols_of_decodesTo fill h]

/-- With every slot decoded DOUT is Decrypt of the block with these symbols, and nothing else is written (R290). -/
theorem gdec_of_all_decoded (fill : w * n = 64) (slots : n ≤ 16) (kv : s.status.kv = true)
    (v : Vector (BitVec w) n) (h : ∀ j (hj : j < n), (unframe s.pbuf)[j] = some v[j]) :
    ∃ ct pt : Block, (∀ j (hj : j < n), ct.extractLsb' (64 - w - w * j) w = v[j]) ∧
      pt = decrypt s.sboxAct s.rkey ct ∧
      gdec unframe s =
        .next { completedOk s with doutHi := pt.extractLsb' 32 32, doutLo := pt.extractLsb' 0 32 } := by
  have decodes : DecodesTo (unframe s.pbuf) (joinSymbols (unframe s.pbuf)) :=
    decodesTo_joinSymbols fill fun j hj => by rw [h j hj, Option.isSome_some]
  refine ⟨_, _, fun j hj => ?_, rfl, gdec_of_decodesTo fill slots _ kv decodes⟩
  rw [← symbol_eq_extractLsb']
  exact Option.some.inj ((decodes j hj).symm.trans (h j hj))

theorem ne_zero_of_getLsbD {m : Nat} {v : BitVec m} {k : Nat} (one : v.getLsbD k = true) : v ≠ 0 := by
  rintro rfl
  exact Bool.false_ne_true (BitVec.getLsbD_zero.symm.trans one)

/-- The lowest one bit is where `ctz` says. -/
theorem ctz_eq_of_lowest {m : Nat} (v : BitVec m) (k : Nat) (one : v.getLsbD k = true)
    (lower : ∀ j < k, v.getLsbD j = false) : ctz v = k := by
  obtain ⟨-, bit, below⟩ := ctz_spec v (ne_zero_of_getLsbD one)
  obtain lt | eq | gt := Nat.lt_trichotomy (ctz v) k
  · exact absurd ((lower _ lt).symm.trans bit) Bool.false_ne_true
  · exact eq
  · exact absurd ((below k gt).symm.trans one) Bool.false_ne_true

/-- Where slot k is the lowest that fails the decode raises COMPOSITION with ESYM = k and every failing slot in
FAILMASK (R289, R290). -/
theorem gdec_of_lowest_failing (slots : n ≤ 16) (kv : s.status.kv = true) (k : Nat) (hk : k < n)
    (fails : (unframe s.pbuf)[k] = none) (lower : ∀ j (h : j < k), (unframe s.pbuf)[j] ≠ none) :
    ∃ fm : BitVec 16, (∀ j (h : j < n), fm.getLsbD j = (unframe s.pbuf)[j].isNone) ∧
      (∀ j, n ≤ j → fm.getLsbD j = false) ∧
      gdec unframe s = .next (completedErr 4 (BitVec.ofNat 5 k) fm s) := by
  have bit (j : Nat) (h : j < n) : (failMask (unframe s.pbuf)).getLsbD j = (unframe s.pbuf)[j].isNone := by
    rw [failMask_getLsbD _ j (by omega), dif_pos h]
  have one : (failMask (unframe s.pbuf)).getLsbD k = true := by rw [bit k hk, fails, Option.isNone_none]
  have lowest : ctz (failMask (unframe s.pbuf)) = k := ctz_eq_of_lowest _ k one fun j hj => by
    rw [bit j (by omega)]
    exact Option.isNone_eq_false_iff.2 (Option.isSome_iff_ne_none.2 (lower j hj))
  refine ⟨failMask (unframe s.pbuf), bit, fun j hj => ?_, ?_⟩
  · obtain inMask | beyond := Nat.lt_or_ge j 16
    · rw [failMask_getLsbD _ j inMask, dif_neg (Nat.not_lt.2 hj)]
    · exact BitVec.getLsbD_of_ge _ _ beyond
  · rw [gdec_failing unframe s kv (ne_zero_of_getLsbD one), firstFailing, lowest]

end

/-- Settles O43: slot j decodes to HDec of its byte, whatever the byte is. -/
theorem gdecHDecodesAndDecrypts : Obligations.GdecHDecodesAndDecrypts := by
  refine ⟨decode_encode .gdecH, fun s => ⟨fun kv => ?_, gdec_unready unframeH s⟩⟩
  obtain ⟨ct, pt, symbols, hpt, run⟩ := gdec_of_all_decoded (by decide) (by decide) kv
    (Vector.ofFn fun j : Fin 16 => hDec (s.pbuf[j.val].extractLsb' 0 7))
    fun j hj => by rw [unframeH_get s.pbuf j hj, Vector.getElem_ofFn]
  exact ⟨ct, pt, fun j hj => (symbols j hj).trans (Vector.getElem_ofFn hj), hpt, run⟩

/-- Settles O44: slot j decodes to the vote of group j. -/
theorem gdecRDecodesOrReportsEveryFailingGroup : Obligations.GdecRDecodesOrReportsEveryFailingGroup := by
  refine ⟨decode_encode .gdecR, fun s => ⟨fun kv => ⟨fun v h => ?_, fun k hk fails lower => ?_⟩,
    gdec_unready unframeR s⟩⟩
  · exact gdec_of_all_decoded (by decide) (by decide) kv v fun j hj => (unframeR_get s.pbuf j hj).trans (h j hj)
  · obtain ⟨fm, bits, above, run⟩ := gdec_of_lowest_failing (by decide) kv k hk
      ((unframeR_get s.pbuf k hk).trans fails) fun j hj => by
        rw [unframeR_get s.pbuf j (by omega)]
        exact lower j hj
    exact ⟨fm, fun j hj => by rw [bits j hj, unframeR_get s.pbuf j hj], above, run⟩

/-- Settles O45: slot j decodes to PDec of codeword j. -/
theorem gdecPDecodesOrReportsEveryFailingWord : Obligations.GdecPDecodesOrReportsEveryFailingWord := by
  refine ⟨decode_encode .gdecP, fun s cw words => ?_⟩
  have slot (j : Nat) (hj : j < 4) : (unframeP s.pbuf)[j] = pDec cw[j] := by
    rw [unframeP_get s.pbuf j hj, words j hj, wordOfBytes]
  refine ⟨fun kv => ⟨fun v h => ?_, fun k hk fails lower => ?_⟩, gdec_unready unframeP s⟩
  · exact gdec_of_all_decoded (by decide) (by decide) kv v fun j hj => (slot j hj).trans (h j hj)
  · obtain ⟨fm, bits, above, run⟩ := gdec_of_lowest_failing (by decide) kv k hk ((slot k hk).trans fails) fun j hj => by
      rw [slot j (by omega)]
      exact lower j hj
    exact ⟨fm, fun j hj => by rw [bits j hj, slot j hj], above, run⟩

/-! ### GDEC.c after GENC.c -/

/-- Where the slots decode to the ciphertext of a block, DOUT is that block (40_cipher.md R170). -/
theorem gdec_recovers {w n : Nat} {unframe : Vector Byte 24 → Vector (Option (BitVec w)) n} (fill : w * n = 64)
    (slots : n ≤ 16) (s u : State) (kv : u.status.kv = true)
    (hrk : u.rkey = s.rkey) (hsbox : u.sboxAct = s.sboxAct)
    (h : DecodesTo (unframe u.pbuf) (encrypt s.sboxAct s.rkey (din s))) :
    gdec unframe u = .next { completedOk u with doutHi := s.dinHi, doutLo := s.dinLo } := by
  rw [gdec_of_decodesTo fill slots _ kv h, hrk, hsbox, (decryptAndEncryptAreInverse _ _ _).1, writeDout, split64_din]
  rfl

/-- `unframe` reads `ct` back from every buffer that begins with the frame of `ct`. -/
def Unframes {L w n : Nat} (unframe : Vector Byte 24 → Vector (Option (BitVec w)) n) (frame : Block → Vector Byte L) :
    Prop :=
  ∀ (ct : Block) (p : Vector Byte 24), (∀ k (h : k < 24) (hL : k < L), p[k] = (frame ct)[k]) →
    DecodesTo (unframe p) ct

/-- A byte that holds a Hamming codeword decodes to its symbol (42_ecc.md R235, property 1). -/
theorem unframeH_frameH : Unframes unframeH frameH := by
  intro ct p same j hj
  rw [unframeH_get p j hj, same j (by omega) hj, frameH_get ct j hj, BitVec.extractLsb'_setWidth_of_le (by decide),
    BitVec.extractLsb'_eq_self, hDec_hEnc]

/-- Three equal bytes decode to their value (R242). -/
theorem unframeR_frameR : Unframes unframeR frameR := by
  intro ct p same j hj
  obtain ⟨first, second, third⟩ := frameR_group ct j hj
  rw [unframeR_get p j hj, same _ _ (by omega), same _ _ (by omega), same _ _ (by omega), first, second, third]
  exact (rDec_two_equal _ _).1

/-- Four bytes that hold a Parity16 codeword decode to its symbol (R254, property 1). -/
theorem unframeP_frameP : Unframes unframeP frameP := by
  intro ct p same j hj
  rw [unframeP_get p j hj, same _ _ (by omega), same _ _ (by omega), same _ _ (by omega), same _ _ (by omega),
    frameP_word ct j hj]
  exact (parityDecodeUndoesEncode _).1

/-- The round trip of one codec (R294). -/
theorem gdec_of_genc_recovers {L w n : Nat} {unframe : Vector Byte 24 → Vector (Option (BitVec w)) n}
    {frame : Block → Vector Byte L} (fill : w * n = 64) (slots : n ≤ 16)
    (undoes : Unframes unframe frame) (s : State) (kv : s.status.kv = true) :
    ∃ t, genc frame s = .next t ∧ ∀ u : State, u.status.kv = true → u.rkey = t.rkey → u.sboxAct = t.sboxAct →
      (∀ k (h : k < 24), k < L → u.pbuf[k] = t.pbuf[k]) →
      gdec unframe u = .next { completedOk u with doutHi := s.dinHi, doutLo := s.dinLo } := by
  obtain ⟨t, run, trk, tsbox, tpbuf⟩ := genc_leaves_frame frame s kv
  exact ⟨t, run, fun u ukv hrk hsbox hpbuf => gdec_recovers fill slots s u ukv (hrk.trans trk) (hsbox.trans tsbox)
    (undoes _ _ fun k hk hL => (hpbuf k hk hL).trans (tpbuf k hk hL))⟩

/-- Settles O46, codec by codec. -/
theorem composedRoundTripRecoversTheBlock : Obligations.ComposedRoundTripRecoversTheBlock := by
  simp only [Obligations.ComposedRoundTripRecoversTheBlock, List.forall_mem_cons]
  exact ⟨gdec_of_genc_recovers (by decide) (by decide) unframeH_frameH,
    gdec_of_genc_recovers (by decide) (by decide) unframeR_frameR,
    gdec_of_genc_recovers (by decide) (by decide) unframeP_frameP, nofun⟩

/-- Two bytes of a group that have the value `v` win the vote over the third (R242). -/
theorem rDec_of_one_corrupted (a b c v : Byte) (h : (b = v ∧ c = v) ∨ (a = v ∧ c = v) ∨ (a = v ∧ b = v)) :
    rDec a b c = some v := by
  obtain ⟨rfl, rfl⟩ | ⟨rfl, rfl⟩ | ⟨rfl, rfl⟩ := h
  · exact (rDec_two_equal _ a).1
  · exact (rDec_two_equal _ b).2.1
  · exact (rDec_two_equal _ c).2.2

/-- A group whose three bytes are flipped alike votes for the flipped symbol (R295). -/
theorem unframeR_of_flipped_group (p : Vector Byte 24) (ct : Block) (k : Nat) (x : Byte)
    (flipped : ∀ i (h : i < 24), p[i] = if i / 3 = k then (frameR ct)[i] ^^^ x else (frameR ct)[i])
    (j : Nat) (h : j < 8) :
    (unframeR p)[j] = some (if j = k then symbol 8 ct j ^^^ x else symbol 8 ct j) := by
  have byte (i : Nat) (hi : i < 24) (hj : i / 3 = j) :
      p[i] = if j = k then symbol 8 ct j ^^^ x else symbol 8 ct j := by
    rw [flipped i hi, frameR_get ct i hi, hj]
  rw [unframeR_get p j h, byte (3 * j) (by omega) (by omega), byte (3 * j + 1) (by omega) (by omega),
    byte (3 * j + 2) (by omega) (by omega)]
  exact (rDec_two_equal _ _).1

/-- Settles O47: with one byte of a group corrupted the other two win its vote, so every slot decodes to its symbol;
with group k flipped the symbols are those of the flipped ciphertext. -/
theorem repetitionRecoversOneByteInEveryGroup : Obligations.RepetitionRecoversOneByteInEveryGroup := by
  intro s kv
  obtain ⟨t, encoded, trk, tsbox, tpbuf⟩ := genc_leaves_frame frameR s kv
  refine ⟨t, encoded, fun u ukv hrk hsbox corrupted => ?_, fun u k x hk ukv hrk hsbox flipped => ?_⟩
  · refine gdec_recovers (by decide) (by decide) s u ukv (hrk.trans trk) (hsbox.trans tsbox) fun j hj => ?_
    obtain ⟨first, second, third⟩ := frameR_group (encrypt s.sboxAct s.rkey (din s)) j hj
    have intact := corrupted j hj
    rw [tpbuf _ _ (by omega), tpbuf _ _ (by omega), tpbuf _ _ (by omega), first, second, third] at intact
    rw [unframeR_get u.pbuf j hj]
    exact rDec_of_one_corrupted _ _ _ _ intact
  · obtain ⟨ct, pt, symbols, hpt, run⟩ := gdec_of_all_decoded (unframe := unframeR) (by decide) (by decide) ukv
      (Vector.ofFn fun j : Fin 8 => if j.val = k then symbol 8 (encrypt s.sboxAct s.rkey (din s)) j.val ^^^ x
        else symbol 8 (encrypt s.sboxAct s.rkey (din s)) j.val) fun j hj => by
        rw [Vector.getElem_ofFn]
        exact unframeR_of_flipped_group u.pbuf _ k x (fun i hi => by rw [flipped i hi, tpbuf i hi hi]) j hj
    refine ⟨ct, pt, fun j hj => (symbols j hj).trans ?_, hpt, run⟩
    rw [Vector.getElem_ofFn, symbol_eq_extractLsb']
    rfl

/-! ### Independence of the slots -/

/-- After a composed decode FAILMASK is the mask of the slot results, also where it is 0 (R290). -/
theorem gdec_failmask {w n : Nat} (unframe : Vector Byte 24 → Vector (Option (BitVec w)) n) (s t : State)
    (kv : s.status.kv = true) (h : gdec unframe s = .next t) : t.failmask = failMask (unframe s.pbuf) := by
  by_cases decoded : failMask (unframe s.pbuf) = 0
  · obtain rfl := Host.Outcome.next.inj ((gdec_decoded unframe s kv decoded).symm.trans h)
    exact decoded.symm
  · obtain rfl := Host.Outcome.next.inj ((gdec_failing unframe s kv decoded).symm.trans h)
    rfl

/-- Two composed decodes with the same result in slot j have the same bit j of FAILMASK. -/
theorem gdec_failmask_bit_congr {w n : Nat} (unframe : Vector Byte 24 → Vector (Option (BitVec w)) n)
    (slots : n ≤ 16) {s u s' u' : State} (skv : s.status.kv = true) (ukv : u.status.kv = true) (j : Nat) (hj : j < n)
    (slot : (unframe s.pbuf)[j] = (unframe u.pbuf)[j]) (hs : gdec unframe s = .next s')
    (hu : gdec unframe u = .next u') :
    s'.failmask.getLsbD j = u'.failmask.getLsbD j := by
  rw [gdec_failmask unframe s s' skv hs, gdec_failmask unframe u u' ukv hu, failMask_getLsbD _ j (by omega),
    failMask_getLsbD _ j (by omega), dif_pos hj, dif_pos hj, slot]

/-- Settles O48: slot j reads the bytes of slot j. -/
theorem slotFailureDependsOnItsOwnBytes : Obligations.SlotFailureDependsOnItsOwnBytes := by
  intro s u s' u' skv ukv
  refine ⟨fun j hj same hs hu => gdec_failmask_bit_congr unframeR (by decide) skv ukv j hj ?_ hs hu,
    fun j hj same hs hu => gdec_failmask_bit_congr unframeP (by decide) skv ukv j hj ?_ hs hu⟩
  · rw [unframeR_get _ j hj, unframeR_get _ j hj, same _ _ (by omega), same _ _ (by omega), same _ _ (by omega)]
  · rw [unframeP_get _ j hj, unframeP_get _ j hj, same _ _ (by omega), same _ _ (by omega), same _ _ (by omega),
      same _ _ (by omega)]

end Sys2Proof.Machine
end

section
/-! Errors (60_exceptions.md): which result codes a completion can leave, which command raises each and when (R321 to
R325), that every command completes (R320), and that an error entry writes its report alone (R328). -/

namespace Sys2Proof.Machine

/-! ### Illegal words -/

/-- A word that is not of the opcode map has no command (30_encoding.md R137). -/
theorem decode_error_of_not_mem (w : Word) (h : w ∉ ([0x00000001, 0x00000002, 0x00000003, 0x00000403, 0x00000004,
    0x00000010, 0x00000011, 0x00000012, 0x00000013, 0x00000014, 0x00000015, 0x00000020, 0x00000120, 0x00000220,
    0x00000021, 0x00000121, 0x00000221] : List Word)) : ∃ e, decode w = .error e := by
  cases hd : decode w with
  | error e => exact ⟨e, rfl⟩
  | ok i =>
    have row := (decodeAcceptsExactlyTheSeventeenWords.1 w i).1 hd
    exact absurd (List.mem_map_of_mem (f := Prod.snd) row) h

/-- Settles O5: the decoder rejects the word, and the engine's turn then records ILLEGAL. -/
theorem illegalWordCompletesWithIllegalAlone : Obligations.IllegalWordCompletesWithIllegalAlone := by
  intro s w pending moves illegal
  obtain ⟨e, rejected⟩ := decode_error_of_not_mem w illegal
  exact (step_of_engineMoves s moves).trans
    (engineTurn_of_decode_error (setTurns s.port.turns.tail s) w e pending rejected)

/-! ### Every completion -/

/-- Settles O49: a completion is an error entry or a success, and both end the command. -/
theorem everyCommandCompletes : Obligations.EveryCommandCompletes := by
  intro i s
  obtain ⟨t, ht, -⟩ := exec_with_port i s
  refine ⟨t, ht, ?_⟩
  obtain ⟨e, m, f, -, rfl⟩ | ⟨u, -, rfl⟩ := exec_cases i s t ht
  · exact ⟨rfl, rfl, e.code_le⟩
  · exact ⟨rfl, rfl, Nat.zero_le 4⟩

/-- Settles O50: only an error entry leaves a code other than 0, and it makes no other write. -/
theorem failingCommandChangesOnlyItsReport : Obligations.FailingCommandChangesOnlyItsReport := by
  intro i s t ht failing
  obtain ⟨e, m, f, -, rfl⟩ | ⟨u, -, rfl⟩ := exec_cases i s t ht
  · rfl
  · exact absurd rfl failing

/-! ### The raisers of each code -/

/-- The configuration that command `i` needs is missing in `s`: no commit yet, or an incomplete staged key or schedule
(R323). -/
def Unconfigured (i : Instr) (s : State) : Prop :=
  (s.status.kv = false ∧ i ∈ ([.enc, .dec, .gencH, .gencR, .gencP, .gdecH, .gdecR, .gdecP] : List Instr)) ∨
  (s.keyWr ≠ 0xFF ∧ i = .rekey) ∨ (s.schedWr ≠ 0xFFFFFFFF ∧ i = .loadsched)

/-- How command `i` can end in `s`: with success, or with an error that it can raise there (R323 to R325). -/
inductive Ends (i : Instr) (s : State) : State → Prop where
  | ok (u : State) : Ends i s (completedOk u)
  | construction : Unconfigured i s → Ends i s (completedErr 2 0 0 s)
  | uncorrectable : i ∈ ([.rdec, .pdec] : List Instr) → Ends i s (completedErr 3 0 0 s)
  | composition (f : BitVec 16) : i ∈ ([.gdecR, .gdecP] : List Instr) → f ≠ 0 →
      Ends i s (completedErr 4 (firstFailing f) f s)

section
variable {i : Instr} {s t : State}

/-- The common shape of the commands that fail by CONSTRUCTION alone: a test of the configuration before the writes. -/
theorem ends_of_guard (configured : Bool) (u : State) (hc : configured = false → Unconfigured i s)
    (h : (if configured then finish u else raiseError .construction 0 0 s) = .next t) : Ends i s t := by
  cases configured with
  | true =>
    obtain rfl := Host.Outcome.next.inj h
    exact .ok u
  | false =>
    obtain rfl := Host.Outcome.next.inj h
    exact .construction (hc rfl)

theorem ends_of_eccResult (r : Option Word) (hi : i ∈ ([.rdec, .pdec] : List Instr)) (h : eccResult r s = .next t) :
    Ends i s t := by
  cases r with
  | some v =>
    obtain rfl := Host.Outcome.next.inj h
    exact .ok { s with doutHi := 0, doutLo := v }
  | none =>
    obtain rfl := Host.Outcome.next.inj h
    exact .uncorrectable hi

/-- A composed decode fails by CONSTRUCTION or, where a slot can fail, by COMPOSITION (43_composition.md R290). -/
theorem ends_of_gdec {w n : Nat} (unframe : Vector Byte 24 → Vector (Option (BitVec w)) n)
    (hc : s.status.kv = false → Unconfigured i s)
    (hi : failMask (unframe s.pbuf) ≠ 0 → i ∈ ([.gdecR, .gdecP] : List Instr)) (h : gdec unframe s = .next t) :
    Ends i s t := by
  cases kv : s.status.kv with
  | false =>
    obtain rfl := Host.Outcome.next.inj ((gdec_unready unframe s kv).symm.trans h)
    exact .construction (hc kv)
  | true =>
    by_cases decoded : failMask (unframe s.pbuf) = 0
    · obtain rfl := Host.Outcome.next.inj ((gdec_decoded unframe s kv decoded).symm.trans h)
      exact .ok _
    · obtain rfl := Host.Outcome.next.inj ((gdec_failing unframe s kv decoded).symm.trans h)
      exact .composition _ (hi decoded) decoded

/-- The inversion of a completion with the raisers of each code, which `exec_cases` leaves out (R321). -/
theorem exec_ends (h : exec i s = .next t) : Ends i s t := by
  cases i with
  | enc | dec | gencH | gencR | gencP => exact ends_of_guard s.status.kv _ (fun kv => .inl ⟨kv, by decide⟩) h
  | rekey => exact ends_of_guard (keyComplete s.keyWr) _ (fun hk => .inr (.inl ⟨beq_eq_false_iff_ne.1 hk, rfl⟩)) h
  | loadsched =>
    exact ends_of_guard (schedComplete s.schedWr) _ (fun hk => .inr (.inr ⟨beq_eq_false_iff_ne.1 hk, rfl⟩)) h
  | rekeyZ | henc | hdec | renc | penc =>
    obtain rfl := Host.Outcome.next.inj h
    exact .ok _
  | rdec => exact ends_of_eccResult _ (by decide) ((exec_rdec_eq s).symm.trans h)
  | pdec => exact ends_of_eccResult _ (by decide) ((exec_pdec_eq s).symm.trans h)
  | gdecH =>
    have noSlotFails := failMask_unframeH s.pbuf
    exact ends_of_gdec unframeH (fun kv => .inl ⟨kv, by decide⟩) (fun fails => absurd noSlotFails fails) h
  | gdecR => exact ends_of_gdec unframeR (fun kv => .inl ⟨kv, by decide⟩) (fun _ => by decide) h
  | gdecP => exact ends_of_gdec unframeP (fun kv => .inl ⟨kv, by decide⟩) (fun _ => by decide) h

/-- An unconfigured command raises CONSTRUCTION, before it does anything else (R323). -/
theorem exec_of_unconfigured (h : Unconfigured i s) : exec i s = .next (completedErr 2 0 0 s) := by
  obtain ⟨kv, hi⟩ | ⟨incomplete, rfl⟩ | ⟨incomplete, rfl⟩ := h
  · cases i with
    | enc | dec => exact cryptDin_unready _ s kv
    | gencH | gencR | gencP => exact genc_unready _ s kv
    | gdecH | gdecR | gdecP => exact gdec_unready _ s kv
    | _ => exact absurd hi (by decide)
  · exact exec_rekey_incomplete s incomplete
  · exact exec_loadsched_incomplete s incomplete

/-- Code 2 is left by an unconfigured command alone. -/
theorem unconfigured_of_err (h : exec i s = .next t) (err : t.status.err = 2) : Unconfigured i s := by
  cases exec_ends h with
  | construction missing => exact missing
  | ok u => exact absurd err (by decide : (0 : BitVec 4) ≠ 2)
  | uncorrectable _ => exact absurd err (by decide : (3 : BitVec 4) ≠ 2)
  | composition f _ _ => exact absurd err (by decide : (4 : BitVec 4) ≠ 2)

theorem mem_raisers_of_unconfigured (h : Unconfigured i s) :
    i ∈ ([.rekey, .loadsched, .enc, .dec, .gencH, .gencR, .gencP, .gdecH, .gdecR, .gdecP] : List Instr) := by
  obtain ⟨-, hi⟩ | ⟨-, rfl⟩ | ⟨-, rfl⟩ := h
  · exact .tail _ (.tail _ hi)
  · decide
  · decide

end

/-- Settles O29: a command completes with CONSTRUCTION exactly where its configuration is missing. -/
theorem constructionIsRaisedInThreeCases : Obligations.ConstructionIsRaisedInThreeCases := fun _ =>
  ⟨fun kv _ hi => exec_of_unconfigured (.inl ⟨kv, hi⟩),
    fun incomplete => exec_of_unconfigured (.inr (.inl ⟨incomplete, rfl⟩)),
    fun incomplete => exec_of_unconfigured (.inr (.inr ⟨incomplete, rfl⟩)), fun _ _ => unconfigured_of_err⟩

/-- Settles O51, by the four ways a command can end; `ctz` names the lowest failing slot (10_state.md R39). -/
theorem eachErrorCodeHasItsRaisersAndInfo : Obligations.EachErrorCodeHasItsRaisersAndInfo := by
  intro i s t h
  cases exec_ends h with
  | ok u => exact .inl ⟨rfl, rfl, rfl⟩
  | construction missing => exact .inr (.inl ⟨rfl, rfl, rfl, mem_raisers_of_unconfigured missing⟩)
  | uncorrectable hi => exact .inr (.inr (.inl ⟨rfl, rfl, rfl, hi⟩))
  | composition f hi fails =>
    exact .inr (.inr (.inr ⟨rfl, hi, (resultInv_composition f fails).first_failing_symbol rfl⟩))

end Sys2Proof.Machine
end

section
/-! Reset and the whole-machine rules of 70_reset_and_hazards.md: the reset input (R350, R351), what a host can conclude from
WDROP (R359), and the progress of every run in the contract (R365, R367). -/

namespace Sys2Proof.Machine

/-- Settles O2: the reset turn is taken in the state without it, whose registers it does not read. -/
theorem resetInputGivesTheResetStateFromEveryState : Obligations.ResetInputGivesTheResetStateFromEveryState :=
  fun s rest => (step_setTurns_cons .reset rest s).trans (takeTurn_reset (setTurns rest s))

/-! ### WDROP -/

/-- STATUS is the only register whose write touches WDROP (10_state.md R37). -/
theorem writeReg_keeps_wdrop (r : Reg) (v : Word) (s : State) (h : r ≠ .status) :
    (writeReg r v s).status.wdrop = s.status.wdrop := by
  cases r with
  | status => exact absurd rfl h
  | _ => rfl

/-- A write in the window loses WDROP only as R37 says: while idle, at STATUS, with bit 3 set. -/
theorem busWrite_clears_wdrop (off : Offset) (v : Word) (s : State) (aligned : off.toNat % 4 = 0)
    (held : s.status.wdrop = true) (lost : (busWrite off v s).status.wdrop = false) :
    off = Reg.status.offset ∧ v.getLsbD 3 = true ∧ s.status.busy = false := by
  obtain ⟨-, dropped⟩ | ⟨-, -, ignored⟩ | ⟨r, idle, hr, written⟩ := busWrite_cases off v s
  · rw [dropped, dropWrite_wdrop] at lost
    cases lost
  · rw [ignored, held] at lost
    cases lost
  · rw [written] at lost
    by_cases status : r = .status
    · obtain rfl := status
      refine ⟨offset_of_regAt off .status aligned hr, ?_, idle⟩
      simpa [writeReg, held] using lost
    · rw [writeReg_keeps_wdrop r v s status, held] at lost
      cases lost

/-- The engine neither sets nor clears WDROP (R37). -/
theorem engineTurn_keeps_wdrop (s t : State) (h : engineTurn s = .next t) : t.status.wdrop = s.status.wdrop := by
  obtain ⟨-, idle⟩ | ⟨w, i, -, -, legal⟩ | ⟨w, e, -, -, illegal⟩ := engineTurn_cases s
  · obtain rfl := Host.Outcome.next.inj (idle.symm.trans h)
    rfl
  · exact (exec_keeps_wdrop_and_staged i s t (legal.symm.trans h)).1
  · obtain rfl := Host.Outcome.next.inj (illegal.symm.trans h)
    rfl

/-- The turns that lose WDROP are a reset and the clearing write. -/
theorem takeTurn_clears_wdrop (turn : Turn) (s t : State) (h : takeTurn turn s = .next t)
    (held : s.status.wdrop = true) (lost : t.status.wdrop = false) :
    turn = .reset ∨ ∃ v, turn = .write Reg.status.offset 4 v ∧ v.getLsbD 3 = true ∧ s.status.busy = false := by
  have not_kept : t.status.wdrop ≠ s.status.wdrop := by simp [held, lost]
  obtain ⟨off, _, -, -, rfl⟩ | ⟨off, width, v, rfl, contract, rfl⟩ | ⟨-, he⟩ | ⟨hreset, -⟩ := takeTurn_cases turn s t h
  · exact absurd rfl not_kept
  · obtain ⟨rfl, aligned⟩ := (alignedWord_iff off width).1 contract
    obtain ⟨rfl, bit, idle⟩ := busWrite_clears_wdrop off v s aligned held lost
    exact .inr ⟨v, rfl, bit, idle⟩
  · exact absurd (engineTurn_keeps_wdrop s t he) not_kept
  · exact .inl hreset

/-- Settles O15: the engine's own move keeps WDROP, and a turn that loses it is a reset or the clearing write. -/
theorem wdropIsLostOnlyByClearingOrReset : Obligations.WdropIsLostOnlyByClearingOrReset := by
  intro s t hstep held lost
  cases hturns : s.port.turns with
  | nil =>
    have kept := engineTurn_keeps_wdrop s t ((step_of_turns_nil s hturns).symm.trans hstep)
    exact absurd (lost.symm.trans (kept.trans held)) Bool.false_ne_true
  | cons turn rest =>
    have taken := (step_of_turns_cons s turn rest hturns).symm.trans hstep
    obtain rfl | ⟨v, rfl, bit, idle⟩ := takeTurn_clears_wdrop turn (setTurns rest s) t taken held lost
    · exact .inl ⟨rest, rfl⟩
    · exact .inr ⟨v, rest, rfl, bit, idle⟩

/-! ### Progress -/

/-- The engine's turn always answers a next state, in which nothing is pending, and leaves the port (60_exceptions.md R320). -/
theorem engineTurn_completes (s : State) (agree : s.status.busy = s.pending.isSome) :
    ∃ t, engineTurn s = .next t ∧ t.port = s.port ∧ t.pending = none ∧ t.status.busy = false := by
  obtain ⟨hp, idle⟩ | ⟨w, i, -, -, legal⟩ | ⟨w, e, -, -, illegal⟩ := engineTurn_cases s
  · rw [hp] at agree
    exact ⟨s, idle, rfl, hp, agree⟩
  · obtain ⟨t, ht, hpending, hbusy, -⟩ := everyCommandCompletes i s
    obtain ⟨-, -, -, -, -, -, hport, -⟩ := commandsWriteOnlyTheirRegisters i s t ht
    exact ⟨t, legal.trans ht, hport, hpending, hbusy⟩
  · exact ⟨_, illegal, rfl, rfl, rfl⟩

/-- A turn in the contract answers a next state, leaves the turns to come, and keeps BUSY equal to "something is pending"
(10_state.md R55). -/
theorem takeTurn_of_inContract (turn : Turn) (s : State) (contract : turn.inContract = true)
    (agree : s.status.busy = s.pending.isSome) :
    ∃ t, takeTurn turn s = .next t ∧ t.port.turns = s.port.turns ∧ t.status.busy = t.pending.isSome := by
  cases turn with
  | read off width => exact ⟨_, readTurn_aligned off width s contract, rfl, agree⟩
  | write off width v =>
    obtain ⟨-, -, -, -, -, -, -, -, -, -, hport⟩ := busWrite_frame off v s
    exact ⟨_, writeTurn_aligned off width v s contract, by rw [hport], busWrite_busy_iff off v s agree⟩
  | engine =>
    obtain ⟨t, ht, hport, hpending, hbusy⟩ := engineTurn_completes s agree
    exact ⟨t, ht, by rw [hport], by rw [hbusy, hpending]; rfl⟩
  | reset => exact ⟨_, takeTurn_reset s, rfl, rfl⟩

/-- Settles O60, by induction on the turns to come: each is taken by a step that keeps the agreement of BUSY and `pending`,
and after the last the engine's move completes what is pending. -/
theorem everyContractRunEndsWithNothingPending : Obligations.EveryContractRunEndsWithNothingPending := by
  intro s agree contract
  generalize hturns : s.port.turns = turns
  induction turns generalizing s with
  | nil =>
    obtain ⟨t, ht, hport, completed⟩ := engineTurn_completes s agree
    exact ⟨t, core_run_succ 0 s t ((step_of_turns_nil s hturns).trans ht), by rw [hport, hturns], completed⟩
  | cons turn rest ih =>
    rw [InContract, hturns] at contract
    obtain ⟨first, others⟩ := List.forall_mem_cons.1 contract
    obtain ⟨u, hu, left, agree'⟩ := takeTurn_of_inContract turn (setTurns rest s) first agree
    have taken := (step_of_turns_cons s turn rest hturns).trans hu
    obtain ⟨t, run, ended⟩ := ih u agree' (by rwa [InContract, left]) left
    exact ⟨t, (core_run_succ (rest.length + 1) s u taken).trans run, ended⟩

end Sys2Proof.Machine
end
